-- ==== Sys2Proof/Word.lean ====
section
/-! DEFINITION. The words of the register interface: data of 32 and 64 bits, the 16-bit offset, the 19-bit
request key (00_scope.md R6, 30_encoding.md R80), and the names of a transaction's direction and size. -/

namespace Sys2Proof

/-- One byte of the window. -/
abbrev Byte := BitVec 8

/-- The data of a 4-byte access: the MSIP width (R6). -/
abbrev Word := BitVec 32

/-- The data of an 8-byte access: the MTIMECMP and MTIME width (R6). -/
abbrev Dword := BitVec 64

/-- The offset the decoder sees (R6 `OFF_WIDTH`, R50). -/
abbrev Offset := BitVec 16

/-- The request key `{W, SZ, OFF}` (R80). -/
abbrev Key := BitVec 19

/-- The direction of a transaction (R80, field `W`). -/
inductive Dir where
  | read
  | write
deriving DecidableEq, Repr, Inhabited

/-- The size of a transaction in bytes (R81, field `SZ`). -/
inductive Size where
  | b1
  | b2
  | b4
  | b8
deriving DecidableEq, Repr, Inhabited

end Sys2Proof
end

