-- ==== Sys2Proof/Config.lean ====
section
/-! DEFINITION. What the platform fixes (00_scope.md R6), the OPEN parameters, and the free values the spec draws.
A free value is an opaque constant: no proof can see what it is, so a claim about it holds for every value. -/

namespace Sys2Proof.Config

/-- `MAX_CORES`, the architectural size of the MSIP and MTIMECMP arrays (R6, R8). -/
abbrev maxCores : Nat := 4095

/-- `NUM_CORES`, the cores backed by hardware on this platform (R6, R199). -/
def numCores : Nat := 2

/-- `WINDOW_SIZE`, the bytes the block decodes (R6, R50). -/
abbrev windowSize : Nat := 0xF000

/-- The default of `CLINT_BASE` (R6). -/
abbrev defaultBase : Nat := 0x02000000

/-- `CLK_DIV`, OPEN: it enters no step, only fairness (R6, R207). -/
opaque clkDiv : Nat

/-- `XLEN`, OPEN: no rule of the block reads it (R6). -/
opaque xlen : Nat

/-- `ENABLE_AVAILABLE[c]`, OPEN (R6): what State.reset holds for it. -/
opaque enableAvailable : Nat → Bool

/-- `MAP_AVAILABLE`, OPEN (R6): what State.reset holds for it. -/
opaque mapAvailable : Bool

/-- `CORE_ACCEPTS(c)` at reset, OPEN (R6, R192). -/
opaque coreAccepts : Nat → Bool

/-- `MTIE[c]` at reset, OPEN (R205). -/
opaque mtie : Nat → Bool

/-- `MSI_WAKES` of core `c` at reset, OPEN (R209). -/
opaque msiWakes : Nat → Bool

/-- The reset draw of `MSIP[i]` (R221). -/
opaque msipReset : Nat → Bool

/-- The reset draw of `MTIMECMP[i]` (R224). -/
opaque mtimecmpReset : Nat → Dword

/-- The reset draw of `MTIME` (R225). -/
opaque mtimeReset : Dword

/-- `draw(Bool)` (R10): the n-th draw of a run, n being State's counter. -/
opaque freeBit : Nat → Bool

end Sys2Proof.Config
end

