-- ==== Sys2Proof/Syntax.lean ====
section
/-! DEFINITION. The transactions of the register interface: one constructor per row of the decode table
(30_encoding.md R85, spec/opcode_table.json), in the table's order. -/

namespace Sys2Proof

/-- A decoded transaction. A row whose pattern leaves `W` or `SZ` open keeps them as operands, so that no bit of
the key is dropped; the write data is kept where the row writes a register (R82). -/
inductive Instr where
  /-- Any access at offset 0x3FFC (R108). -/
  | padAccess (w : Dir) (sz : Size)
  /-- Any access at an offset `1111 low` (R110). -/
  | outside (w : Dir) (sz : Size) (low : BitVec 12)
  /-- Any access at an offset `11 low` below 0xF000 (R109). -/
  | rsvAccess (w : Dir) (sz : Size) (low : BitVec 14)
  /-- Read MTIME (R106). -/
  | mtimeRd
  /-- Write MTIME (R107). -/
  | mtimeWr (wdata : Dword)
  /-- Read MSIP register `idx` (R100). -/
  | msipRd (idx : BitVec 12)
  /-- Write MSIP register `idx` (R101). -/
  | msipWr (idx : BitVec 12) (wdata : Word)
  /-- Read the MTIMECMP register of index `{0, t}` (R102). -/
  | mtimecmpRdLo (t : BitVec 11)
  /-- Read the MTIMECMP register of index `{1, t}` (R103). -/
  | mtimecmpRdHi (t : BitVec 11)
  /-- Write the MTIMECMP register of index `{0, t}` (R104). -/
  | mtimecmpWrLo (t : BitVec 11) (wdata : Dword)
  /-- Write the MTIMECMP register of index `{1, t}` (R105). -/
  | mtimecmpWrHi (t : BitVec 11) (wdata : Dword)
  /-- Every key no earlier row takes (R111). -/
  | badAccess (w : Dir) (sz : Size) (off : Offset)
deriving DecidableEq, Repr, Inhabited

end Sys2Proof
end

