-- ==== Sys2Proof/WellFormed.lean ====
section
/-! DEFINITION. Which terms of Instr some key decodes to: the operand values that first match leaves to each row
(30_encoding.md R85, R86). -/

namespace Sys2Proof

/-- A 4-byte, 4-aligned access in the MSIP region: rows 6 and 7 (R86). -/
def isMsipAccess (sz : Size) (off : Offset) : Bool :=
  sz == .b4 && decide (off.toNat < 0x4000) && off.toNat % 4 == 0

/-- An 8-byte, 8-aligned access in the timer region: rows 4, 5 and 8 to 11 (R86). -/
def isTimerAccess (sz : Size) (off : Offset) : Bool :=
  sz == .b8 && decide (0x4000 ≤ off.toNat) && decide (off.toNat < 0xC000) && off.toNat % 8 == 0

/-- The operands a row can have, each earlier row having taken its own keys. -/
def wellFormed : Instr → Bool
  | .padAccess _ _ => true
  | .outside _ _ _ => true
  | .rsvAccess _ _ low => decide (low.toNat < 0x3000)
  | .mtimeRd => true
  | .mtimeWr _ => true
  | .msipRd idx => idx != 0xFFF#12
  | .msipWr idx _ => idx != 0xFFF#12
  | .mtimecmpRdLo _ => true
  | .mtimecmpRdHi t => t != 0x7FF#11
  | .mtimecmpWrLo _ _ => true
  | .mtimecmpWrHi t _ => t != 0x7FF#11
  | .badAccess _ sz off =>
    off != 0x3FFC#16 && decide (off.toNat < 0xC000) && !isMsipAccess sz off && !isTimerAccess sz off

end Sys2Proof
end

