-- ==== Sys2Proof/Decode.lean ====
section
/-! DEFINITION. The request key, its fields, the first-match decoder and the encoder (30_encoding.md R80 to R91). -/

namespace Sys2Proof

/-- A transaction as it is written: the request key and the data operand (R80). A write of size `SZ` has its data
in the low `8 * 2^SZ` bits of `wdata` (R82); a read has none, and `wdata` is not looked at. -/
structure BusReq where
  key : Key
  wdata : Dword
deriving DecidableEq, Repr, Inhabited

/-- Field `W` (R80). -/
def dirBit : Dir → BitVec 1
  | .read => 0#1
  | .write => 1#1

/-- Field `W`, read (R80). -/
def dirOfBit (b : Bool) : Dir := if b then .write else .read

/-- Field `SZ` (R81). -/
def sizeCode : Size → BitVec 2
  | .b1 => 0#2
  | .b2 => 1#2
  | .b4 => 2#2
  | .b8 => 3#2

/-- Field `SZ`, read (R81): `hi` is its upper bit. -/
def sizeOfBits (hi lo : Bool) : Size :=
  match hi, lo with
  | false, false => .b1
  | false, true => .b2
  | true, false => .b4
  | true, true => .b8

/-- `K = {W, SZ, OFF}` (R80). -/
def mkKey (w : Dir) (sz : Size) (off : Offset) : Key := dirBit w ++ sizeCode sz ++ off

/-- `K[18]` (R80). -/
def keyDir (k : Key) : Dir := dirOfBit (k.getLsbD 18)

/-- `K[17:16]` (R80). -/
def keySize (k : Key) : Size := sizeOfBits (k.getLsbD 17) (k.getLsbD 16)

/-- `K[15:0]` (R80). -/
def keyOff (k : Key) : Offset := k.extractLsb' 0 16

/-- `IDX = K[13:2]` (R83). -/
def keyIdx (k : Key) : BitVec 12 := k.extractLsb' 2 12

/-- `K[13:3]`, the low bits of TIDX (R84); the row gives the upper one. -/
def keyTimerLow (k : Key) : BitVec 11 := k.extractLsb' 3 11

/-- The offset of MSIP register `idx`: `00 IDX 00` (R83, R85). -/
def msipOffset (idx : BitVec 12) : Offset := 0#2 ++ idx ++ 0#2

/-- The offset of the MTIMECMP register of index `{0, t}`: `01 t 000` (R84, R85). -/
def timerLoOffset (t : BitVec 11) : Offset := 1#2 ++ t ++ 0#3

/-- The offset of the MTIMECMP register of index `{1, t}`: `10 t 000` (R84, R85). -/
def timerHiOffset (t : BitVec 11) : Offset := 2#2 ++ t ++ 0#3

/-- An offset from 0xF000 on (R85, row 2). -/
def outsideOffset (low : BitVec 12) : Offset := 0xF#4 ++ low

/-- An offset from 0xC000 on (R85, row 3). -/
def rsvOffset (low : BitVec 14) : Offset := 3#2 ++ low

/-- The rows of the decode table, by name (R85). -/
inductive Row where
  | padAccess
  | outside
  | rsvAccess
  | mtimeRd
  | mtimeWr
  | msipRd
  | msipWr
  | mtimecmpRdLo
  | mtimecmpRdHi
  | mtimecmpWrLo
  | mtimecmpWrHi
  | badAccess
deriving DecidableEq, Repr

/-- The row's mask (R85). -/
def rowMask : Row → Key
  | .padAccess => 0x0FFFF#19
  | .outside => 0x0F000#19
  | .rsvAccess => 0x0C000#19
  | .mtimeRd => 0x7FFFF#19
  | .mtimeWr => 0x7FFFF#19
  | .msipRd => 0x7C003#19
  | .msipWr => 0x7C003#19
  | .mtimecmpRdLo => 0x7C007#19
  | .mtimecmpRdHi => 0x7C007#19
  | .mtimecmpWrLo => 0x7C007#19
  | .mtimecmpWrHi => 0x7C007#19
  | .badAccess => 0x00000#19

/-- The row's match (R85). -/
def rowMatch : Row → Key
  | .padAccess => 0x03FFC#19
  | .outside => 0x0F000#19
  | .rsvAccess => 0x0C000#19
  | .mtimeRd => 0x3BFF8#19
  | .mtimeWr => 0x7BFF8#19
  | .msipRd => 0x20000#19
  | .msipWr => 0x60000#19
  | .mtimecmpRdLo => 0x34000#19
  | .mtimecmpRdHi => 0x38000#19
  | .mtimecmpWrLo => 0x74000#19
  | .mtimecmpWrHi => 0x78000#19
  | .badAccess => 0x00000#19

/-- Does the key fit the row: `K & mask == match` (R85). -/
def rowFits (k : Key) (r : Row) : Bool := k &&& rowMask r == rowMatch r

/-- The rows in the order in which the first match decides; the last row fits every key (R85). -/
def rowOrder : List Row :=
  [.padAccess, .outside, .rsvAccess, .mtimeRd, .mtimeWr, .msipRd, .msipWr,
   .mtimecmpRdLo, .mtimecmpRdHi, .mtimecmpWrLo, .mtimecmpWrHi, .badAccess]

/-- The row that decides a key: the first that fits (R85). -/
def selectRow (k : Key) : Row := (rowOrder.find? (rowFits k)).getD .badAccess

/-- The operands of a row, taken from the key and the data (40_register_access.md, "Operands"). -/
def buildInstr (r : BusReq) : Row → Instr
  | .padAccess => .padAccess (keyDir r.key) (keySize r.key)
  | .outside => .outside (keyDir r.key) (keySize r.key) (r.key.extractLsb' 0 12)
  | .rsvAccess => .rsvAccess (keyDir r.key) (keySize r.key) (r.key.extractLsb' 0 14)
  | .mtimeRd => .mtimeRd
  | .mtimeWr => .mtimeWr r.wdata
  | .msipRd => .msipRd (keyIdx r.key)
  | .msipWr => .msipWr (keyIdx r.key) (r.wdata.extractLsb' 0 32)
  | .mtimecmpRdLo => .mtimecmpRdLo (keyTimerLow r.key)
  | .mtimecmpRdHi => .mtimecmpRdHi (keyTimerLow r.key)
  | .mtimecmpWrLo => .mtimecmpWrLo (keyTimerLow r.key) r.wdata
  | .mtimecmpWrHi => .mtimecmpWrHi (keyTimerLow r.key) r.wdata
  | .badAccess => .badAccess (keyDir r.key) (keySize r.key) (keyOff r.key)

/-- The decoder: total, because the last row fits every key (R85). -/
def decode (r : BusReq) : Instr := buildInstr r (selectRow r.key)

/-- Why a number is not read as a transaction. -/
inductive DecodeError where
  /-- It has a bit above the 19 of a request key (R80). Safe: such a number is no transaction. -/
  | notAKey
deriving DecidableEq, Repr

/-- A transaction given as a number: its key, and its data operand. -/
def decodeKey (w : Nat) (wdata : Dword) : Except DecodeError Instr :=
  if w < 2 ^ 19 then .ok (decode ⟨BitVec.ofNat 19 w, wdata⟩) else .error .notAKey

/-- The row of a transaction. -/
def rowOf : Instr → Row
  | .padAccess _ _ => .padAccess
  | .outside _ _ _ => .outside
  | .rsvAccess _ _ _ => .rsvAccess
  | .mtimeRd => .mtimeRd
  | .mtimeWr _ => .mtimeWr
  | .msipRd _ => .msipRd
  | .msipWr _ _ => .msipWr
  | .mtimecmpRdLo _ => .mtimecmpRdLo
  | .mtimecmpRdHi _ => .mtimecmpRdHi
  | .mtimecmpWrLo _ _ => .mtimecmpWrLo
  | .mtimecmpWrHi _ _ => .mtimecmpWrHi
  | .badAccess _ _ _ => .badAccess

/-- The encoder: the key of each row as the patterns of R85 write it, and the data where the row has data. -/
def encode : Instr → BusReq
  | .padAccess w sz => ⟨mkKey w sz 0x3FFC#16, 0#64⟩
  | .outside w sz low => ⟨mkKey w sz (outsideOffset low), 0#64⟩
  | .rsvAccess w sz low => ⟨mkKey w sz (rsvOffset low), 0#64⟩
  | .mtimeRd => ⟨mkKey .read .b8 0xBFF8#16, 0#64⟩
  | .mtimeWr wdata => ⟨mkKey .write .b8 0xBFF8#16, wdata⟩
  | .msipRd idx => ⟨mkKey .read .b4 (msipOffset idx), 0#64⟩
  | .msipWr idx wdata => ⟨mkKey .write .b4 (msipOffset idx), wdata.setWidth 64⟩
  | .mtimecmpRdLo t => ⟨mkKey .read .b8 (timerLoOffset t), 0#64⟩
  | .mtimecmpRdHi t => ⟨mkKey .read .b8 (timerHiOffset t), 0#64⟩
  | .mtimecmpWrLo t wdata => ⟨mkKey .write .b8 (timerLoOffset t), wdata⟩
  | .mtimecmpWrHi t wdata => ⟨mkKey .write .b8 (timerHiOffset t), wdata⟩
  | .badAccess w sz off => ⟨mkKey w sz off, 0#64⟩

/-- `RD32 off` (R91). -/
def rd32 (off : Offset) : BusReq := ⟨mkKey .read .b4 off, 0#64⟩

/-- `WR32 off, data` (R91). -/
def wr32 (off : Offset) (data : Word) : BusReq := ⟨mkKey .write .b4 off, data.setWidth 64⟩

/-- `RD64 off` (R91). -/
def rd64 (off : Offset) : BusReq := ⟨mkKey .read .b8 off, 0#64⟩

/-- `WR64 off, data` (R91). -/
def wr64 (off : Offset) (data : Dword) : BusReq := ⟨mkKey .write .b8 off, data⟩

/-- What the decoder reads from a key numbered as spec/opcode_table.json numbers it, with data zero. The length
`nbits` decides nothing: a key has 19 bits whatever the row (R89), and a higher bit makes the number no key. -/
def decodeTableWord (_nbits w : Nat) : Option Instr :=
  match decodeKey w 0#64 with
  | .ok i => some i
  | .error .notAKey => none

end Sys2Proof
end

