-- ==== Sys2Proof/Machine/Agents.lean ====
section
/-! DEFINITION. The agents of the model (00_scope.md R5): what a core may ask for, where it stands inside a host
operation, what it is answered, its own OPEN state, and the moves whose interleaving is a run (20_memory.md R68). -/

namespace Sys2Proof.Machine

/-- A core of the platform (R199). -/
abbrev CoreId := Fin Config.numCores

/-- The core of identifier 0 (R199). -/
def core0 : CoreId := ⟨0, by decide⟩

/-- The core of identifier 1 (R199). -/
def core1 : CoreId := ⟨1, by decide⟩

/-- The host operations and the raw accessors (41_ipi_operations.md). A `core_id` is an unbounded number (R144). -/
inductive HostOp where
  | readMsip (coreId : Nat)
  | writeMsip (coreId : Nat) (bit : Bool)
  | init
  | enable
  | disable
  | send (coreId : Nat)
  | clear (coreId : Nat)
deriving DecidableEq, Repr, Inhabited

/-- What a core's software may issue next. -/
inductive Request where
  /-- A transaction, given by its key and data (R80). -/
  | bus (r : BusReq)
  /-- `MemRead` or `MemWrite` at a byte address (R10, R50). -/
  | mem (w : Dir) (sz : Size) (addr : Nat) (wdata : Dword)
  /-- An atomic read-modify-write, load-reserved or store-conditional at a byte address (R74). -/
  | atomic (addr : Nat)
  /-- An instruction fetch from a byte address (R75). -/
  | fetch (addr : Nat)
  /-- A host operation (R92). -/
  | op (o : HostOp)
deriving DecidableEq, Repr, Inhabited

/-- The position of a core inside the host operation it executes (R32). -/
inductive Position where
  /-- No operation in progress. -/
  | idle
  /-- Inside `init`: the indices still to be cleared, in order (R152, R153). -/
  | initClear (todo : List Nat)
  /-- Inside `clear(coreId)` after step 1, which read `bit` (R158). -/
  | clearWrite (coreId : Nat) (bit : Bool)
deriving DecidableEq, Repr, Inhabited

/-- `InitResult` (R140). -/
inductive InitResult where
  | ok
  | configurationError
deriving DecidableEq, Repr

/-- `MaskResult`, the result of `enable` and `disable` (R140). -/
inductive MaskResult where
  | ok
  | unavailableMechanism
deriving DecidableEq, Repr

/-- `SendResult` (R140). -/
inductive SendResult where
  | ok
  | outOfRange
  | accessFailure
deriving DecidableEq, Repr

/-- `ClearResult` (R140). -/
inductive ClearResult where
  | pendingCleared
  | nothingPending
  | outOfRange
  | accessFailure
deriving DecidableEq, Repr

/-- What a core's last step was answered: the `rdata` of a read (R82), or the result of an operation (R140). -/
inductive Reply where
  /-- Nothing: no step yet, or a fault ended the operation with no result (R180). -/
  | none
  /-- A write, or `write_msip`, has been applied; it returns nothing (R140). -/
  | done
  /-- The data of a 4-byte read. -/
  | data32 (v : Word)
  /-- The data of an 8-byte read. -/
  | data64 (v : Dword)
  /-- The address is outside the window, so the access did not reach this block (R50). -/
  | notReached
  | bit (b : Bool)
  | init (r : InitResult)
  | mask (r : MaskResult)
  | send (r : SendResult)
  | clear (r : ClearResult)
deriving DecidableEq, Repr

/-- The mode of a core, as far as R78 distinguishes modes. -/
inductive Mode where
  | machine
  | other
deriving DecidableEq, Repr, Inhabited

/-- The interrupts of the block (R185): software and timer. -/
inductive Irq where
  | msi
  | mti
deriving DecidableEq, Repr, Inhabited

/-- The part of a core's own state that the rules of the block mention; it is an OPEN core model (R192, R194). -/
structure CoreModel where
  /-- The mode the core runs in (R78). -/
  mode : Mode
  /-- `CORE_ACCEPTS(c)` at this moment (R6, R192). -/
  accepts : Bool
  /-- `MTIE[c]` (R205). -/
  mtie : Bool
  /-- Whether the core is in a wait state (R209). -/
  waiting : Bool
  /-- `MSI_WAKES`: whether a pending MSI ends the core's wait state (R209). -/
  wakes : Bool
  /-- The interrupt whose handler the core entered last (R192). -/
  handler : Option Irq
deriving DecidableEq, Repr, Inhabited

/-- One step of one agent (R5). The interleaving of the agents' steps is a sequence of these (R68). -/
inductive Move where
  /-- `Core[c]` takes the next step of its operation, or of its program (R143). -/
  | core (c : CoreId)
  /-- The event `TakeMSI(c)` (R192). -/
  | takeMsi (c : CoreId)
  /-- The event `TakeMTI(c)` (R205). -/
  | takeMti (c : CoreId)
  /-- `Tick` (R206). -/
  | tick
  /-- `Env` tears the mapping down (R148). -/
  | teardown
  /-- A pending MSI ends the wait state of core `c` (R209). -/
  | wake (c : CoreId)
  /-- Core `c`'s own state changes, outside this block (R191, R194). -/
  | coreModel (c : CoreId) (m : CoreModel)
  /-- Core `c`'s software decides what it will issue next (R5). -/
  | submit (c : CoreId) (r : Request)
deriving DecidableEq, Repr, Inhabited

/-- Why an access or operation has no meaning (60_exceptions.md R181). -/
inductive Reason where
  | unbackedIndex
  | reserved
  | outsideBlock
  | readOnly
  | badAccess
  | atomicAccess
  | fetch
  | precondition
  | notMapped
deriving DecidableEq, Repr

/-- A fault record `(agent, reason, offset)` (R30). Only cores raise faults. A fault raised before an offset is
formed has none (R144, R146). -/
structure FaultRecord where
  agent : CoreId
  reason : Reason
  off : Option Offset
deriving DecidableEq, Repr

/-- The parameters of R6 that the model takes as an argument. No step writes them. -/
structure Platform where
  /-- `CLINT_BASE`. -/
  base : Nat
  /-- `ENABLE_AVAILABLE[c]`. -/
  enableAvailable : Vector Bool Config.numCores
  /-- `MAP_AVAILABLE`. -/
  mapAvailable : Bool
deriving DecidableEq, Repr

end Sys2Proof.Machine

namespace Sys2Proof

/-- The agent that moves next where the schedule names none: any interleaving is allowed (20_memory.md R68), so
this is a free value, the n-th of a run, n being State's counter. -/
opaque Config.freeMove : Nat → Machine.Move

end Sys2Proof
end

