-- ==== Sys2Proof/Machine/State.lean ====
section
/-! DEFINITION. The machine's state (10_state.md R20), the reasons a step has no next state, and the state after
reset (70_reset_and_hazards.md R220). -/

namespace Sys2Proof.Machine

/-- Why a step of the machine does not exist. A model fault of R180 is NOT here: it is a next state, in which the
record stands in `faults` and the agent has stopped. -/
inductive Fault where
  /-- A move of core `c` was chosen, and `c` has stopped for good after a fault (R180; 93_implementation_defined.md
  I22 "stuck"). Raised by the moves of a core. Safe: the spec gives that agent no further step. -/
  | agentStopped (c : CoreId)
  /-- Core `c` was chosen to issue, and its program is empty or it is in a wait state. Raised by the core's move.
  Safe: the core has no step there. -/
  | nothingToIssue (c : CoreId)
  /-- TakeMSI, TakeMTI or wake was chosen for core `c` while its guard is false (R192, R205, R209). Raised by those
  moves. Safe: the event is not enabled. -/
  | notEnabled (c : CoreId)
deriving DecidableEq, Repr

/-- Why a request has no meaning in the model. -/
inductive Refusal where
  /-- An instruction without a meaning yet; raised by the dispatcher alone. Safe. -/
  | notModelled (mnemonic : String)
  /-- A window request by core `c` from a mode other than machine mode (R78, R90; I19 "refuse"). Raised at the
  boundary, before decode. Safe: no source says what such a request does. -/
  | notMachineMode (c : CoreId)
deriving DecidableEq, Repr

/-- The state of the model (R20). The fields from `program` on, `platform` apart, are the model's own. -/
structure State where
  /-- The stored bit of each backed MSIP register (R21). -/
  msip : Vector Bool Config.numCores
  /-- The backed MTIMECMP registers (R24). -/
  mtimecmp : Vector Dword Config.numCores
  /-- MTIME (R25). -/
  mtime : Dword
  /-- The local software-interrupt enable of each core (R27). -/
  lsie : Vector Bool Config.numCores
  /-- Whether the base-address mapping is established (R29). -/
  mapped : Bool
  /-- The fault records (R30): a set, kept as a list with strictly rising ranks. -/
  faults : List FaultRecord
  /-- Each core's position inside a host operation (R32). -/
  position : Vector Position Config.numCores
  /-- The OPEN state of each core itself (R192, R194). -/
  core : Vector CoreModel Config.numCores
  /-- The platform's parameters (R6). -/
  platform : Platform
  /-- What each core has yet to issue, oldest first: its program order (R5). -/
  program : Vector (List Request) Config.numCores
  /-- What each core's last step was answered. -/
  reply : Vector Reply Config.numCores
  /-- The core whose step this is: `self` of 40_register_access.md. -/
  self : CoreId
  /-- The agents' next moves, oldest first: the interleaving (R68). -/
  schedule : List Move
  /-- How many free values the run has used. -/
  draws : Nat
  /-- The transactions that reached the block and their issuers, newest first: the order `<B` (R68). No step
  reads it. -/
  history : List (CoreId × BusReq)
deriving DecidableEq, Repr

/-- One value per core. -/
def State.perCore {α : Type} (f : Nat → α) : Vector α Config.numCores :=
  ⟨((List.range Config.numCores).map f).toArray, by simp⟩

/-- The core model of core `c` at reset. Its OPEN parameters are free values; machine mode is PRESUMED (log 7), no
wait state and no handler are a DESIGN CHOICE (log 9). -/
def State.resetCore (c : Nat) : CoreModel where
  mode := .machine
  accepts := Config.coreAccepts c
  mtie := Config.mtie c
  waiting := false
  wakes := Config.msiWakes c
  handler := none

/-- The machine right after reset (R220 to R226). -/
def State.reset : State where
  msip := State.perCore Config.msipReset
  mtimecmp := State.perCore Config.mtimecmpReset
  mtime := Config.mtimeReset
  lsie := Vector.replicate Config.numCores false
  mapped := false
  faults := []
  position := Vector.replicate Config.numCores .idle
  core := State.perCore State.resetCore
  platform :=
    { base := Config.defaultBase
      enableAvailable := State.perCore Config.enableAvailable
      mapAvailable := Config.mapAvailable }
  program := Vector.replicate Config.numCores []
  reply := Vector.replicate Config.numCores .none
  self := core0
  schedule := []
  draws := 0
  history := []

end Sys2Proof.Machine
end

