-- ==== Sys2Proof/Machine/Operands.lean ====
section
/-! DEFINITION. The operand forms: register indices, the offsets of the registers, and the regions of the window
(20_memory.md R50 to R56, 30_encoding.md R83, R84). -/

namespace Sys2Proof.Machine

/-- A backed index `i < NUM_CORES` names a core's register (R15, R35). -/
def backed (i : Nat) : Option CoreId :=
  if h : i < Config.numCores then some ⟨i, h⟩ else none

/-- `TIDX = {0, t}` (R84). -/
def timerIndexLo (t : BitVec 11) : BitVec 12 := 0#1 ++ t

/-- `TIDX = {1, t}` (R84). -/
def timerIndexHi (t : BitVec 11) : BitVec 12 := 1#1 ++ t

/-- The offset `4*i` of MSIP register `i`, as a host operation forms it (R51, R92). -/
def msipAt (i : Nat) : Offset := BitVec.ofNat 16 (4 * i)

/-- The offset `0x4000 + 8*i` of MTIMECMP register `i` (R53). -/
def mtimecmpAt (i : Nat) : Offset := BitVec.ofNat 16 (0x4000 + 8 * i)

/-- The offset of MTIME (R54). -/
def mtimeAt : Offset := 0xBFF8#16

/-- The offset a byte address has in the window, if it is in the window (R50). -/
def windowOffset (base addr : Nat) : Option Offset :=
  if base ≤ addr ∧ addr < base + Config.windowSize then some (BitVec.ofNat 16 (addr - base)) else none

/-- The pieces of the window (R56). -/
inductive RegionKind where
  | msip
  | padding
  | mtimecmp
  | mtime
  | reserved
deriving DecidableEq, Repr

/-- A piece of the window: its first offset and its size in bytes. -/
structure Region where
  kind : RegionKind
  base : Nat
  size : Nat
deriving DecidableEq, Repr

/-- The layout, in order (R51 to R56). -/
def layout : List Region :=
  [⟨.msip, 0x0000, 4 * Config.maxCores⟩, ⟨.padding, 0x3FFC, 4⟩,
   ⟨.mtimecmp, 0x4000, 8 * Config.maxCores⟩, ⟨.mtime, 0xBFF8, 8⟩, ⟨.reserved, 0xC000, 0x3000⟩]

/-- Does the region hold the offset. -/
def regionHolds (off : Nat) (r : Region) : Bool :=
  decide (r.base ≤ off) && decide (off < r.base + r.size)

/-- The region an offset falls in (R56). -/
def regionOf (off : Nat) : Option RegionKind := (layout.find? (regionHolds off)).map Region.kind

/-- Byte `k` of a register's value: bits `8k+7:8k` (R59, little-endian: D2). -/
def byteOf {n : Nat} (v : BitVec n) (k : Nat) : Byte := v.extractLsb' (8 * k) 8

end Sys2Proof.Machine
end

