-- ==== Sys2Proof/Machine/Ops.lean ====
section
/-! DEFINITION. The named operations over the registers and the bookkeeping: one home for each field's reads and
writes, the fault of 60_exceptions.md R180, the free draws, and the entry into an interrupt handler (R192). -/

namespace Sys2Proof.Machine

/-- Write `MSIP[c]` (R23). -/
def setMsip (c : CoreId) (b : Bool) (s : State) : State := { s with msip := s.msip.set c.val b c.isLt }

/-- Write `MTIMECMP[c]` (R24). -/
def setMtimecmp (c : CoreId) (v : Dword) (s : State) : State :=
  { s with mtimecmp := s.mtimecmp.set c.val v c.isLt }

/-- Set MTIME; only `Tick` does (R25). -/
def setMtime (v : Dword) (s : State) : State := { s with mtime := v }

/-- Write `LSIE[c]` (R27). -/
def setLsie (c : CoreId) (b : Bool) (s : State) : State := { s with lsie := s.lsie.set c.val b c.isLt }

/-- Set the mapping flag (R29). -/
def setMapped (b : Bool) (s : State) : State := { s with mapped := b }

/-- Set the fault records (R30). -/
def setFaults (l : List FaultRecord) (s : State) : State := { s with faults := l }

/-- Set core `c`'s position inside a host operation (R32). -/
def setPosition (c : CoreId) (p : Position) (s : State) : State :=
  { s with position := s.position.set c.val p c.isLt }

/-- Set core `c`'s own OPEN state. -/
def setCore (c : CoreId) (m : CoreModel) (s : State) : State := { s with core := s.core.set c.val m c.isLt }

/-- Set what core `c` has yet to issue. -/
def setProgram (c : CoreId) (l : List Request) (s : State) : State :=
  { s with program := s.program.set c.val l c.isLt }

/-- Answer core `c`. -/
def setReply (c : CoreId) (r : Reply) (s : State) : State := { s with reply := s.reply.set c.val r c.isLt }

/-- Make `c` the issuing core of the step. -/
def setSelf (c : CoreId) (s : State) : State := { s with self := c }

/-- Set the agents' next moves. -/
def setSchedule (l : List Move) (s : State) : State := { s with schedule := l }

/-- Count `n` free values as used. -/
def addDraws (n : Nat) (s : State) : State := { s with draws := s.draws + n }

/-- Append a transaction to the order `<B` (R68). -/
def logTransaction (r : BusReq) (s : State) : State := { s with history := (s.self, r) :: s.history }

/-- The 32-bit value of MSIP register `c`: the stored bit, zero-extended (R22). -/
def msipWord (c : CoreId) (s : State) : Word := (BitVec.ofBool s.msip[c]).setWidth 32

/-- A number for each fault reason, for the order of the records. -/
def reasonCode : Reason → Nat
  | .unbackedIndex => 0
  | .reserved => 1
  | .outsideBlock => 2
  | .readOnly => 3
  | .badAccess => 4
  | .atomicAccess => 5
  | .fetch => 6
  | .precondition => 7
  | .notMapped => 8

/-- A number for each offset or none, for the order of the records. -/
def offCode : Option Offset → Nat
  | none => 0
  | some o => o.toNat + 1

/-- The rank by which the records are kept in order; no two records share one. -/
def recordRank (r : FaultRecord) : Nat := (r.agent.val * 16 + reasonCode r.reason) * 131072 + offCode r.off

/-- Add a record to the set (R30): a set holds it once. -/
def insertRecord (r : FaultRecord) : List FaultRecord → List FaultRecord
  | [] => [r]
  | x :: xs =>
    if recordRank r < recordRank x then r :: x :: xs
    else if recordRank r = recordRank x then x :: xs
    else x :: insertRecord r xs

/-- The canonical form of the set of records: strictly rising ranks. -/
abbrev faultsSorted (l : List FaultRecord) : Prop := l.Pairwise (fun a b => recordRank a < recordRank b)

/-- Core `c` has stopped for good: it has raised a fault (R180). -/
def stopped (c : CoreId) (s : State) : Bool := s.faults.any (fun r => r.agent == c)

/-- `raise Fault(reason, off)` (R10, R180): the record of `self` is added, no register changes, the host operation
ends with no result, and `self` has no further step. There is no return from a fault. -/
def raiseFault (reason : Reason) (off : Option Offset) (s : State) : State :=
  setReply s.self .none
    (setPosition s.self .idle (setFaults (insertRecord ⟨s.self, reason, off⟩ s.faults) s))

/-- End the host operation of `self` with a result (R143). -/
def finish (r : Reply) (s : State) : State := setReply s.self r (setPosition s.self .idle s)

/-- Bit 0 of what `self` has just read (R144, R158). -/
def repliedBit (s : State) : Bool :=
  match s.reply[s.self] with
  | .data32 v => v[0]
  | _ => false

/-- Enter the handler of an interrupt of the machine mode (R185, R192): the block does not change. What the core
does is OPEN; the model records the handler, runs it in machine mode and out of any wait state (DEDUCED, log 10),
and leaves whether the core accepts another interrupt a free value. -/
def enterHandler (q : Irq) (c : CoreId) (s : State) : State :=
  addDraws 1
    (setCore c
      { s.core[c] with
        mode := .machine, waiting := false, handler := some q, accepts := Config.freeBit s.draws } s)

/-- The move that comes next: the schedule's first, or a free one where the schedule names none (R68). -/
def nextMove (s : State) : Move × State :=
  match s.schedule with
  | m :: rest => (m, setSchedule rest s)
  | [] => (Config.freeMove s.draws, addDraws 1 s)

/-- Go on from a next state; a step that has none has none still. -/
def andThen (o : Host.Outcome State Fault Refusal) (f : State → Host.Outcome State Fault Refusal) :
    Host.Outcome State Fault Refusal :=
  match o with
  | .next t => f t
  | .fault r => .fault r
  | .refused r => .refused r

/-- Byte `off` of the window, as a view of the registers (R51 to R55, R59): none where no register is (R34, R35). -/
def windowByte (off : Nat) (s : State) : Option Byte :=
  match regionOf off with
  | some .msip => (backed (off / 4)).map fun c => byteOf (msipWord c s) (off % 4)
  | some .mtimecmp => (backed ((off - 0x4000) / 8)).map fun c => byteOf s.mtimecmp[c] (off % 8)
  | some .mtime => some (byteOf s.mtime (off % 8))
  | some .padding => none
  | some .reserved => none
  | none => none

end Sys2Proof.Machine
end

