-- ==== Sys2Proof/Machine/Flags.lean ====
section
/-! DEFINITION. The block has no status flags (10_state.md R33). What takes their place are its output levels, which
follow the registers at once (R26, R205, R112), and the guards of the events they enable. -/

namespace Sys2Proof.Machine

/-- `msip_irq[c] = MSIP[c]` (R26). -/
def msipIrq (c : CoreId) (s : State) : Bool := s.msip[c]

/-- `mtip_irq[c] = (MTIME >= MTIMECMP[c])`, unsigned (R205). -/
def mtipIrq (c : CoreId) (s : State) : Bool := decide (s.mtimecmp[c].toNat ≤ s.mtime.toNat)

/-- The guard of `TakeMSI(c)` (R192). -/
def msiEnabled (c : CoreId) (s : State) : Bool := msipIrq c s && s.lsie[c] && s.core[c].accepts

/-- The guard of `TakeMTI(c)`, defined like R192 (R205). -/
def mtiEnabled (c : CoreId) (s : State) : Bool := mtipIrq c s && s.core[c].mtie && s.core[c].accepts

/-- The guard of the wake step: the core waits, its MSI is pending, and MSI_WAKES holds (R209). -/
def wakeEnabled (c : CoreId) (s : State) : Bool := s.core[c].waiting && msipIrq c s && s.core[c].wakes

/-- The names of the per-core state machine (R28): a view of the pair `(LSIE[c], MSIP[c])`, not extra state. -/
inductive IpiState where
  | disabled
  /-- Disabled, with a pending bit kept: the source has no name for it (90_conflicts.md C2). -/
  | disabledPending
  | enabled
  | pending
deriving DecidableEq, Repr

/-- The view of a pair `(LSIE, MSIP)` (R28). -/
def viewOf (lsie msip : Bool) : IpiState :=
  match lsie, msip with
  | false, false => .disabled
  | false, true => .disabledPending
  | true, false => .enabled
  | true, true => .pending

/-- Where core `c` is in the per-core state machine (R28). -/
def ipiState (c : CoreId) (s : State) : IpiState := viewOf s.lsie[c] s.msip[c]

end Sys2Proof.Machine
end

