-- ==== Sys2Proof/Machine/Msip.lean ====
section
/-! DEFINITION. The transactions on the MSIP array (40_register_access.md R100, R101). -/

namespace Sys2Proof.Machine

/-- `MSIP_RD` (R100). -/
def execMsipRd (idx : BitVec 12) (s : State) : Host.Outcome State Fault Refusal :=
  match backed idx.toNat with
  | none => .next (raiseFault .unbackedIndex (some (msipOffset idx)) s)
  | some c => .next (setReply s.self (.data32 (msipWord c s)) s)

/-- `MSIP_WR` (R101): bits 31 to 1 of the data are discarded (R23). -/
def execMsipWr (idx : BitVec 12) (wdata : Word) (s : State) : Host.Outcome State Fault Refusal :=
  match backed idx.toNat with
  | none => .next (raiseFault .unbackedIndex (some (msipOffset idx)) s)
  | some c => .next (setReply s.self .done (setMsip c (wdata[0]) s))

end Sys2Proof.Machine
end

