-- ==== Sys2Proof/Machine/Timer.lean ====
section
/-! DEFINITION. The transactions on MTIMECMP and MTIME (40_register_access.md R102 to R107). -/

namespace Sys2Proof.Machine

/-- Read the MTIMECMP register of index `i`, addressed at `off` (R102, R103). -/
def readMtimecmp (i : BitVec 12) (off : Offset) (s : State) : State :=
  match backed i.toNat with
  | none => raiseFault .unbackedIndex (some off) s
  | some c => setReply s.self (.data64 s.mtimecmp[c]) s

/-- Write the MTIMECMP register of index `i`, addressed at `off`: all 64 bits are stored (R104, R105). -/
def writeMtimecmp (i : BitVec 12) (off : Offset) (wdata : Dword) (s : State) : State :=
  match backed i.toNat with
  | none => raiseFault .unbackedIndex (some off) s
  | some c => setReply s.self .done (setMtimecmp c wdata s)

/-- `MTIMECMP_RD_LO` (R102). -/
def execMtimecmpRdLo (t : BitVec 11) (s : State) : Host.Outcome State Fault Refusal :=
  .next (readMtimecmp (timerIndexLo t) (timerLoOffset t) s)

/-- `MTIMECMP_RD_HI` (R103). -/
def execMtimecmpRdHi (t : BitVec 11) (s : State) : Host.Outcome State Fault Refusal :=
  .next (readMtimecmp (timerIndexHi t) (timerHiOffset t) s)

/-- `MTIMECMP_WR_LO` (R104). -/
def execMtimecmpWrLo (t : BitVec 11) (wdata : Dword) (s : State) : Host.Outcome State Fault Refusal :=
  .next (writeMtimecmp (timerIndexLo t) (timerLoOffset t) wdata s)

/-- `MTIMECMP_WR_HI` (R105). -/
def execMtimecmpWrHi (t : BitVec 11) (wdata : Dword) (s : State) : Host.Outcome State Fault Refusal :=
  .next (writeMtimecmp (timerIndexHi t) (timerHiOffset t) wdata s)

/-- `MTIME_RD` (R106). -/
def execMtimeRd (s : State) : Host.Outcome State Fault Refusal :=
  .next (setReply s.self (.data64 s.mtime) s)

/-- `MTIME_WR` (R107): MTIME is read-only to software, so the write faults and stores nothing. -/
def execMtimeWr (_wdata : Dword) (s : State) : Host.Outcome State Fault Refusal :=
  .next (raiseFault .readOnly (some mtimeAt) s)

end Sys2Proof.Machine
end

