-- ==== Sys2Proof/Machine/Unmeant.lean ====
section
/-! DEFINITION. The transactions that select no register, each of which raises its fault
(40_register_access.md R108 to R111). -/

namespace Sys2Proof.Machine

/-- `PAD_ACCESS` (R108). -/
def execPadAccess (_w : Dir) (_sz : Size) (s : State) : Host.Outcome State Fault Refusal :=
  .next (raiseFault .reserved (some 0x3FFC#16) s)

/-- `OUTSIDE` (R110). -/
def execOutside (_w : Dir) (_sz : Size) (low : BitVec 12) (s : State) : Host.Outcome State Fault Refusal :=
  .next (raiseFault .outsideBlock (some (outsideOffset low)) s)

/-- `RSV_ACCESS` (R109). -/
def execRsvAccess (_w : Dir) (_sz : Size) (low : BitVec 14) (s : State) : Host.Outcome State Fault Refusal :=
  .next (raiseFault .reserved (some (rsvOffset low)) s)

/-- `BAD_ACCESS` (R111). -/
def execBadAccess (_w : Dir) (_sz : Size) (off : Offset) (s : State) : Host.Outcome State Fault Refusal :=
  .next (raiseFault .badAccess (some off) s)

end Sys2Proof.Machine
end

