-- ==== Sys2Proof/Machine/Dispatch.lean ====
section
/-! DEFINITION. The dispatcher: one arm per row of the decode table, each one direct call of the row's meaning. -/

namespace Sys2Proof.Machine

def exec (i : Instr) (s : State) : Host.Outcome State Fault Refusal :=
  match i with
  | .padAccess w sz => Sys2Proof.Machine.execPadAccess w sz s
  | .outside w sz low => Sys2Proof.Machine.execOutside w sz low s
  | .rsvAccess w sz low => Sys2Proof.Machine.execRsvAccess w sz low s
  | .mtimeRd => Sys2Proof.Machine.execMtimeRd s
  | .mtimeWr wdata => Sys2Proof.Machine.execMtimeWr wdata s
  | .msipRd idx => Sys2Proof.Machine.execMsipRd idx s
  | .msipWr idx wdata => Sys2Proof.Machine.execMsipWr idx wdata s
  | .mtimecmpRdLo t => Sys2Proof.Machine.execMtimecmpRdLo t s
  | .mtimecmpRdHi t => Sys2Proof.Machine.execMtimecmpRdHi t s
  | .mtimecmpWrLo t wdata => Sys2Proof.Machine.execMtimecmpWrLo t wdata s
  | .mtimecmpWrHi t wdata => Sys2Proof.Machine.execMtimecmpWrHi t wdata s
  | .badAccess w sz off => Sys2Proof.Machine.execBadAccess w sz off s

end Sys2Proof.Machine
end

