-- ==== Sys2Proof/Machine/Bus.lean ====
section
/-! DEFINITION. The boundary of the block: how a core's request becomes a transaction (20_memory.md R50, R74 to R78,
30_encoding.md R90). -/

namespace Sys2Proof.Machine

/-- `self` issues a transaction: only machine mode is admitted (R78); then it takes its place in `<B` (R68), is
decoded (R85) and applied, all in one step (R63). -/
def transact (r : BusReq) (s : State) : Host.Outcome State Fault Refusal :=
  match s.core[s.self].mode with
  | .machine => exec (decode r) (logTransaction r s)
  | .other => .refused (.notMachineMode s.self)

/-- After a transaction: go on where it raised no fault; a fault has ended the operation (R180). -/
def afterAccess (o : Host.Outcome State Fault Refusal) (f : State → State) :
    Host.Outcome State Fault Refusal :=
  andThen o fun t => .next (if stopped t.self t then t else f t)

/-- An access at a byte address outside the window does not reach the block (R50). -/
def outsideWindow (s : State) : Host.Outcome State Fault Refusal := .next (setReply s.self .notReached s)

/-- `MemRead` and `MemWrite` at a byte address (R10, R50): the decoder sees the offset. -/
def memAccess (w : Dir) (sz : Size) (addr : Nat) (wdata : Dword) (s : State) :
    Host.Outcome State Fault Refusal :=
  match windowOffset s.platform.base addr with
  | none => outsideWindow s
  | some off => transact ⟨mkKey w sz off, wdata⟩ s

/-- A request that no key expresses faults at the boundary, with its own reason (R74, R75, R90). -/
def boundaryFault (reason : Reason) (addr : Nat) (s : State) : Host.Outcome State Fault Refusal :=
  match windowOffset s.platform.base addr with
  | none => outsideWindow s
  | some off =>
    match s.core[s.self].mode with
    | .machine => .next (raiseFault reason (some off) s)
    | .other => .refused (.notMachineMode s.self)

end Sys2Proof.Machine
end

