-- ==== Sys2Proof/Machine/HostOps.lean ====
section
/-! DEFINITION. The host operations and the raw accessors (41_ipi_operations.md), each step by step: a step issues
at most one transaction, and the checks before it belong to its step (R143). -/

namespace Sys2Proof.Machine

/-- `read_msip(core_id)` (R144). -/
def opReadMsip (i : Nat) (s : State) : Host.Outcome State Fault Refusal :=
  if Config.maxCores ≤ i then .next (raiseFault .precondition none s)
  else if s.mapped then
    afterAccess (transact (rd32 (msipAt i)) s) fun t => finish (.bit (repliedBit t)) t
  else .next (raiseFault .notMapped none s)

/-- `write_msip(core_id, bit)` (R145). -/
def opWriteMsip (i : Nat) (b : Bool) (s : State) : Host.Outcome State Fault Refusal :=
  if Config.maxCores ≤ i then .next (raiseFault .precondition none s)
  else if s.mapped then
    afterAccess (transact (wr32 (msipAt i) ((BitVec.ofBool b).setWidth 32)) s) (finish .done)
  else .next (raiseFault .notMapped none s)

/-- `enable()` (R154). -/
def opEnable (s : State) : Host.Outcome State Fault Refusal :=
  if s.platform.enableAvailable[s.self] then .next (finish (.mask .ok) (setLsie s.self true s))
  else .next (finish (.mask .unavailableMechanism) s)

/-- `disable()` (R155). -/
def opDisable (s : State) : Host.Outcome State Fault Refusal :=
  if s.platform.enableAvailable[s.self] then .next (finish (.mask .ok) (setLsie s.self false s))
  else .next (finish (.mask .unavailableMechanism) s)

/-- `send(core_id)` (R156, R157): the range is checked before the mapping (R141). -/
def opSend (i : Nat) (s : State) : Host.Outcome State Fault Refusal :=
  if Config.numCores ≤ i then .next (finish (.send .outOfRange) s)
  else if s.mapped then afterAccess (transact (wr32 (msipAt i) 1#32) s) (finish (.send .ok))
  else .next (finish (.send .accessFailure) s)

/-- `clear(core_id)`, step 1: the checks and the read (R158). -/
def opClear (i : Nat) (s : State) : Host.Outcome State Fault Refusal :=
  if Config.numCores ≤ i then .next (finish (.clear .outOfRange) s)
  else if s.mapped then
    afterAccess (transact (rd32 (msipAt i)) s) fun t => setPosition t.self (.clearWrite i (repliedBit t)) t
  else .next (finish (.clear .accessFailure) s)

/-- The result of `clear` reports the bit as step 1 read it (R160). -/
def clearResult (b : Bool) : ClearResult := if b then .pendingCleared else .nothingPending

/-- `clear(core_id)`, step 2: it writes 0 whatever step 1 read (R158, R159). -/
def opClearWrite (i : Nat) (b : Bool) (s : State) : Host.Outcome State Fault Refusal :=
  if s.mapped then
    afterAccess (transact (wr32 (msipAt i) 0#32) s) (finish (.clear (clearResult b)))
  else .next (finish (.clear .accessFailure) s)

/-- `init`, stage 3: the next clearing write, of the indices still to be cleared (R152, R153). The result comes in
the step of the last one (R143). -/
def opInitClear (todo : List Nat) (s : State) : Host.Outcome State Fault Refusal :=
  match todo with
  | [] => .next (finish (.init .ok) s)
  | c :: rest =>
    if s.mapped then
      afterAccess (transact (wr32 (msipAt c) 0#32) s) fun t =>
        if rest.isEmpty then finish (.init .ok) t else setPosition t.self (.initClear rest) t
    else .next (finish (.init .configurationError) s)

/-- The indices a later `init` clears: a draw for each (R153). -/
def drawnIndices (n : Nat) : List Nat :=
  (List.range Config.numCores).filter fun c => Config.freeBit (n + c)

/-- `init`, stage 1 (R150): does the platform's core count exceed the maximum. -/
def tooManyCores (n : Nat) : Bool := decide (Config.maxCores < n)

/-- `init()` (R149 to R153), first step: the count check, the mapping, and the first clearing write. -/
def opInit (s : State) : Host.Outcome State Fault Refusal :=
  if tooManyCores Config.numCores then .next (finish (.init .configurationError) s)
  else if s.mapped then opInitClear (drawnIndices s.draws) (addDraws Config.numCores s)
  else if s.platform.mapAvailable then opInitClear (List.range Config.numCores) (setMapped true s)
  else .next (finish (.init .configurationError) s)

/-- The first step of a host operation. -/
def startOp (o : HostOp) (s : State) : Host.Outcome State Fault Refusal :=
  match o with
  | .readMsip i => opReadMsip i s
  | .writeMsip i b => opWriteMsip i b s
  | .init => opInit s
  | .enable => opEnable s
  | .disable => opDisable s
  | .send i => opSend i s
  | .clear i => opClear i s

/-- What a core's next request does (R12, R50, R90, R92). -/
def issue (q : Request) (s : State) : Host.Outcome State Fault Refusal :=
  match q with
  | .bus r => transact r s
  | .mem w sz addr wdata => memAccess w sz addr wdata s
  | .atomic addr => boundaryFault .atomicAccess addr s
  | .fetch addr => boundaryFault .fetch addr s
  | .op o => startOp o s

end Sys2Proof.Machine
end

