-- ==== Sys2Proof/Machine/Events.lean ====
section
/-! DEFINITION. One move of one agent (00_scope.md R5): a core's step, the events TakeMSI and TakeMTI, Tick, the
teardown of the mapping, and what the outside does to a core. -/

namespace Sys2Proof.Machine

/-- A step of core `c`, which has none once it has stopped (R180). -/
def ifRunning (c : CoreId) (s : State) (o : Host.Outcome State Fault Refusal) :
    Host.Outcome State Fault Refusal :=
  if stopped c s then .fault (.agentStopped c) else o

/-- Core `c` goes on with its operation, or issues the next request of its program (R143). -/
def advance (c : CoreId) (s : State) : Host.Outcome State Fault Refusal :=
  match s.position[c] with
  | .initClear todo => opInitClear todo (setSelf c s)
  | .clearWrite i b => opClearWrite i b (setSelf c s)
  | .idle =>
    match s.program[c] with
    | [] => .fault (.nothingToIssue c)
    | q :: rest => issue q (setProgram c rest (setSelf c s))

/-- A step of `Core[c]` in its program order (R5, R143); a waiting core issues nothing (R209). -/
def moveCore (c : CoreId) (s : State) : Host.Outcome State Fault Refusal :=
  ifRunning c s (if s.core[c].waiting then .fault (.nothingToIssue c) else advance c s)

/-- `TakeMSI(c)` (R192). -/
def moveTakeMsi (c : CoreId) (s : State) : Host.Outcome State Fault Refusal :=
  ifRunning c s (if msiEnabled c s then .next (enterHandler .msi c s) else .fault (.notEnabled c))

/-- `TakeMTI(c)` (R205). -/
def moveTakeMti (c : CoreId) (s : State) : Host.Outcome State Fault Refusal :=
  ifRunning c s (if mtiEnabled c s then .next (enterHandler .mti c s) else .fault (.notEnabled c))

/-- `Tick` (R206): MTIME counts up by 1, modulo 2^64. -/
def moveTick (s : State) : Host.Outcome State Fault Refusal := .next (setMtime (s.mtime + 1#64) s)

/-- `Env` tears the mapping down (R148). -/
def moveTeardown (s : State) : Host.Outcome State Fault Refusal := .next (setMapped false s)

/-- A pending MSI ends core `c`'s wait state where MSI_WAKES holds (R209). -/
def moveWake (c : CoreId) (s : State) : Host.Outcome State Fault Refusal :=
  ifRunning c s
    (if wakeEnabled c s then .next (setCore c { s.core[c] with waiting := false } s)
     else .fault (.notEnabled c))

/-- Core `c`'s own state changes: it is outside this block (R191, R194), so it may become anything. -/
def moveCoreModel (c : CoreId) (m : CoreModel) (s : State) : Host.Outcome State Fault Refusal :=
  ifRunning c s (.next (setCore c m s))

/-- Core `c`'s software puts a request at the end of its program (R5). -/
def moveSubmit (c : CoreId) (r : Request) (s : State) : Host.Outcome State Fault Refusal :=
  .next (setProgram c (s.program[c] ++ [r]) s)

/-- One move of one agent. -/
def runMove (m : Move) (s : State) : Host.Outcome State Fault Refusal :=
  match m with
  | .core c => moveCore c s
  | .takeMsi c => moveTakeMsi c s
  | .takeMti c => moveTakeMti c s
  | .tick => moveTick s
  | .teardown => moveTeardown s
  | .wake c => moveWake c s
  | .coreModel c m => moveCoreModel c m s
  | .submit c r => moveSubmit c r s

/-- Put a request where core 0 issues it in the very next step: nothing pending inside an operation, no wait state,
machine mode, not stopped, first in core 0's program, and core 0's move next. -/
def placeRequest (r : Request) (s : State) : State :=
  setSchedule (.core core0 :: s.schedule)
    (setProgram core0 (r :: s.program[core0])
      (setCore core0 { s.core[core0] with mode := .machine, waiting := false }
        (setPosition core0 .idle (setFaults (s.faults.filter fun x => x.agent != core0) s))))

end Sys2Proof.Machine
end

