-- ==== Sys2Proof/Machine/Step.lean ====
section
/-! DEFINITION. The step of the machine: one move of one agent (20_memory.md R68). -/

namespace Sys2Proof.Machine

/-- One step: the next move of the interleaving, applied. -/
def step (s : State) : Host.Outcome State Fault Refusal := runMove (nextMove s).1 (nextMove s).2

/-- `s` with the transaction of key `w` (data zero) placed so that the next step runs it. A number that is no key
places nothing. -/
def State.withFetchWord (s : State) (_nbits w : Nat) : State :=
  if w < 2 ^ 19 then placeRequest (.bus ⟨BitVec.ofNat 19 w, 0#64⟩) s else s

end Sys2Proof.Machine
end

