-- ==== Sys2Proof/Safety.lean ====
section
/-! DEFINITION. The terms in which claims speak: safe states, the states a run reaches, the value that the order
`<B` gives a register, the canonical form, and the fairness premises of liveness claims. -/

namespace Sys2Proof.Safety

open Sys2Proof.Machine

/-- No agent has faulted (60_exceptions.md R180: a faulted state is never a final state of a run). -/
def Safe (s : State) : Prop := s.faults = []

/-- A position inside a host operation names backed indices only: what `init` still has to clear, one at least and
in ascending order, and what `clear` will write (R152, R158). -/
def PositionBacked : Position → Prop
  | .idle => True
  | .initClear todo => todo ≠ [] ∧ todo.Pairwise (· < ·) ∧ ∀ i ∈ todo, i < Config.numCores
  | .clearWrite i _ => i < Config.numCores

/-- The bookkeeping is in its form: the records are a set in canonical order (R30); each agent has raised at most
one, since it stops with it, and is inside no operation then (R180); the positions name backed indices. -/
structure Inv (s : State) : Prop where
  sorted : faultsSorted s.faults
  once : s.faults.Pairwise fun a b => a.agent ≠ b.agent
  idle : ∀ c : CoreId, stopped c s = true → s.position[c] = .idle
  positions : ∀ c : CoreId, PositionBacked s.position[c]

/-- What a transaction of `self` leaves alone whatever it does: every field but MSIP, MTIMECMP, the records, and the
position and answer of `self`. -/
structure TransactionFrame (s t : State) : Prop where
  mtime : t.mtime = s.mtime
  lsie : t.lsie = s.lsie
  mapped : t.mapped = s.mapped
  core : t.core = s.core
  platform : t.platform = s.platform
  program : t.program = s.program
  self : t.self = s.self
  schedule : t.schedule = s.schedule
  draws : t.draws = s.draws
  history : t.history = s.history
  others : ∀ c : CoreId, c ≠ s.self →
    t.position[c] = s.position[c] ∧ t.reply[c] = s.reply[c] ∧ stopped c t = stopped c s

/-- `t` is `s` after `raise Fault(q, off)` by `self` (R180): the record is added, no register changes, the host
operation has ended with no result, and `self` has stopped. -/
structure FaultTaken (q : Reason) (off : Option Offset) (s t : State) : Prop where
  frame : TransactionFrame s t
  msip : t.msip = s.msip
  mtimecmp : t.mtimecmp = s.mtimecmp
  records : ∀ r, r ∈ t.faults ↔ r = ⟨s.self, q, off⟩ ∨ r ∈ s.faults
  position : t.position[s.self] = .idle
  reply : t.reply[s.self] = .none
  stops : stopped s.self t = true

/-- `t` is `s` after a transaction that answered `r` to `self`, as far as the answer goes. -/
structure Answered (r : Reply) (s t : State) : Prop where
  frame : TransactionFrame s t
  faults : t.faults = s.faults
  position : t.position = s.position
  reply : t.reply[s.self] = r

/-- The bytes of the window a transaction stores to: the first offset and the number of bytes (R51, R53, R62). -/
def storeRange : Instr → Option (Nat × Nat)
  | .msipWr idx _ => some ((msipOffset idx).toNat, 4)
  | .mtimecmpWrLo t _ => some ((timerLoOffset t).toNat, 8)
  | .mtimecmpWrHi t _ => some ((timerHiOffset t).toNat, 8)
  | .padAccess _ _ => none
  | .outside _ _ _ => none
  | .rsvAccess _ _ _ => none
  | .mtimeRd => none
  | .mtimeWr _ => none
  | .msipRd _ => none
  | .mtimecmpRdLo _ => none
  | .mtimecmpRdHi _ => none
  | .badAccess _ _ _ => none

/-- Core `c` can take a step: it has not stopped, does not wait, and is in machine mode. -/
structure Able (c : CoreId) (s : State) : Prop where
  running : stopped c s = false
  awake : s.core[c].waiting = false
  mode : s.core[c].mode = .machine

/-- Core `c` issues the request `q` next, and goes on with `rest`. -/
structure Issues (c : CoreId) (q : Request) (rest : List Request) (s : State) : Prop where
  able : Able c s
  idle : s.position[c] = .idle
  program : s.program[c] = q :: rest

/-- `s` with core `c` having taken its next request from its program. -/
def begun (c : CoreId) (rest : List Request) (s : State) : State := setProgram c rest (setSelf c s)

/-- What a step of core `c` leaves alone where it raises no fault: the timer, the records, the cores' own state, the
parameters, the schedule, and everything of the other cores. -/
structure OpFrame (c : CoreId) (s t : State) : Prop where
  mtimecmp : t.mtimecmp = s.mtimecmp
  mtime : t.mtime = s.mtime
  faults : t.faults = s.faults
  core : t.core = s.core
  platform : t.platform = s.platform
  schedule : t.schedule = s.schedule
  others : ∀ d : CoreId, d ≠ c →
    t.position[d] = s.position[d] ∧ t.reply[d] = s.reply[d] ∧ t.program[d] = s.program[d]

/-- What a transaction writes into `MSIP[c]`, if it writes it (R23, R101). -/
def msipWritten (c : CoreId) (r : BusReq) : Option Bool :=
  match decode r with
  | .msipWr idx wdata => if idx.toNat = c.val then some (wdata[0]) else none
  | _ => none

/-- What a transaction writes into `MTIMECMP[c]`, if it writes it (R24, R104). -/
def mtimecmpWritten (c : CoreId) (r : BusReq) : Option Dword :=
  match decode r with
  | .mtimecmpWrLo t wdata => if (timerIndexLo t).toNat = c.val then some wdata else none
  | .mtimecmpWrHi t wdata => if (timerIndexHi t).toNat = c.val then some wdata else none
  | _ => none

/-- The last value written in an order given newest first, or the value before every write (R69, R71). -/
def lastWritten {α : Type} (written : BusReq → Option α) (before : α) :
    List (CoreId × BusReq) → α
  | [] => before
  | (_, r) :: older => (written r).getD (lastWritten written before older)

/-- The registers hold the last values that `<B` gives them, from the reset values `m0` and `t0` on (R69). -/
structure FollowsOrder (m0 : CoreId → Bool) (t0 : CoreId → Dword) (s : State) : Prop where
  msip : ∀ c : CoreId, s.msip[c] = lastWritten (msipWritten c) (m0 c) s.history
  mtimecmp : ∀ c : CoreId, s.mtimecmp[c] = lastWritten (mtimecmpWritten c) (t0 c) s.history

/-- The column `enable` of the table of R161. -/
def afterEnable : IpiState → IpiState
  | .disabled => .enabled
  | .disabledPending => .pending
  | .enabled => .enabled
  | .pending => .pending

/-- The column `disable` of the table of R161. -/
def afterDisable : IpiState → IpiState
  | .disabled => .disabled
  | .disabledPending => .disabledPending
  | .enabled => .disabled
  | .pending => .disabledPending

/-- The column `send(c)` of the table of R161. -/
def afterSend : IpiState → IpiState
  | .disabled => .disabledPending
  | .disabledPending => .disabledPending
  | .enabled => .pending
  | .pending => .pending

/-- The column `clear(c)` of the table of R161: the state and the result. -/
def afterClear : IpiState → IpiState × ClearResult
  | .disabled => (.disabled, .nothingPending)
  | .disabledPending => (.disabled, .pendingCleared)
  | .enabled => (.enabled, .nothingPending)
  | .pending => (.enabled, .pendingCleared)

/-- The step from `s` to `t` puts no write of `MSIP[c]` into the order `<B`. -/
def NoMsipWrite (c : CoreId) (s t : State) : Prop :=
  t.history = s.history ∨ ∃ d r, t.history = (d, r) :: s.history ∧ msipWritten c r = none

/-- Moves of any agents lead from one state to the other, and none of them writes `MSIP[c]` (R77). -/
inductive Undisturbed (c : CoreId) : State → State → Prop where
  | refl (s : State) : Undisturbed c s s
  | move {s t u : State} (m : Move) : Undisturbed c s t → runMove m t = .next u → NoMsipWrite c t u →
      Undisturbed c s u

/-- An infinite run: the agents' moves and the states between them. -/
structure Run where
  moves : Nat → Move
  states : Nat → State
  steps : ∀ n, runMove (moves n) (states n) = .next (states (n + 1))

/-- `Tick` fires infinitely often: the fairness of R207. -/
def TickFair (r : Run) : Prop := ∀ n, ∃ m, n ≤ m ∧ r.moves m = .tick

/-- Weak fairness of `TakeMSI(c)` (R240): enabled from some point on, it is taken again and again. -/
def MsiFair (c : CoreId) (r : Run) : Prop :=
  (∃ n, ∀ m, n ≤ m → msiEnabled c (r.states m) = true ∧ stopped c (r.states m) = false) →
    ∀ n, ∃ m, n ≤ m ∧ r.moves m = .takeMsi c

end Sys2Proof.Safety
end

