-- ==== Sys2Proof/Certificates/Slice0/Obligations.lean ====
section
/-! DEFINITION. The statements for the provers. Each docstring names the rule of the spec it formalises. -/

open Sys2Proof Sys2Proof.Machine Sys2Proof.Safety

/-! ### Encoding -/

/-- Decoding what the encoder writes for a well-formed transaction gives that transaction (R80 to R85; the key is the
spec's decision D1). -/
def Obligations.DecodeEncode : Prop :=
  ∀ i : Instr, wellFormed i = true → decode (encode i) = i

/-- Every key decodes to a well-formed transaction, and the encoder writes that key again (R80 to R85; the key is the
spec's decision D1). -/
def Obligations.EncodeDecode : Prop :=
  ∀ r : BusReq, wellFormed (decode r) = true ∧ (encode (decode r)).key = r.key

/-- Decoding is first match over the table of R85, whose masks and matches stand here as the spec writes them; some
row fits every key. -/
def Obligations.FirstMatch : Prop :=
  ∀ r : BusReq,
    (([(Row.padAccess, 0x0FFFF#19, 0x03FFC#19), (.outside, 0x0F000#19, 0x0F000#19),
       (.rsvAccess, 0x0C000#19, 0x0C000#19), (.mtimeRd, 0x7FFFF#19, 0x3BFF8#19),
       (.mtimeWr, 0x7FFFF#19, 0x7BFF8#19), (.msipRd, 0x7C003#19, 0x20000#19),
       (.msipWr, 0x7C003#19, 0x60000#19), (.mtimecmpRdLo, 0x7C007#19, 0x34000#19),
       (.mtimecmpRdHi, 0x7C007#19, 0x38000#19), (.mtimecmpWrLo, 0x7C007#19, 0x74000#19),
       (.mtimecmpWrHi, 0x7C007#19, 0x78000#19), (.badAccess, 0x00000#19, 0x00000#19)] :
      List (Row × Key × Key)).find? fun e => r.key &&& e.2.1 == e.2.2).map (·.1)
      = some (rowOf (decode r))

/-- The opcode map in prose (R86): which row an access is, from its direction, size, region and alignment. -/
def Obligations.OpcodeMap : Prop :=
  ∀ (w : Dir) (sz : Size) (off : Offset) (data : Dword),
    rowOf (decode ⟨mkKey w sz off, data⟩) =
      if off = 0x3FFC#16 then .padAccess
      else if 0xF000 ≤ off.toNat then .outside
      else if 0xC000 ≤ off.toNat then .rsvAccess
      else if sz = .b4 ∧ off.toNat < 0x4000 ∧ off.toNat % 4 = 0 then
        (if w = .read then .msipRd else .msipWr)
      else if sz = .b8 ∧ 0x4000 ≤ off.toNat ∧ off.toNat % 8 = 0 then
        (if off = 0xBFF8#16 then (if w = .read then .mtimeRd else .mtimeWr)
         else if off.toNat < 0x8000 then (if w = .read then .mtimecmpRdLo else .mtimecmpWrLo)
         else (if w = .read then .mtimecmpRdHi else .mtimecmpWrHi))
      else .badAccess

/-- Keys written out from the patterns of R85 and the tables of 95_test_vectors.md decode to the transactions they
stand for. -/
def Obligations.SpecWords : Prop :=
  decode ⟨0b0100000000000000100#19, 0#64⟩ = .msipRd 1#12 ∧
  decode ⟨0b1100000000000000100#19, 0xFFFFFFFE#64⟩ = .msipWr 1#12 0xFFFFFFFE#32 ∧
  decode ⟨0b0110100000000001000#19, 0#64⟩ = .mtimecmpRdLo 1#11 ∧
  decode ⟨0b1111011111111110000#19, 5#64⟩ = .mtimecmpWrHi 0x7FE#11 5#64 ∧
  decode ⟨0b0111011111111111000#19, 0#64⟩ = .mtimeRd ∧
  decode ⟨0b1110011111111111100#19, 0#64⟩ = .padAccess .write .b8 ∧
  decode ⟨0b0101100000000000000#19, 0#64⟩ = .rsvAccess .read .b4 0#14 ∧
  decode ⟨0b1111111111111111000#19, 0#64⟩ = .outside .write .b8 0xFF8#12 ∧
  decode ⟨0b0110011111111111000#19, 0#64⟩ = .badAccess .read .b8 0x3FF8#16

/-! ### Layout -/

/-- The layout (R56): the five regions, at the bases and with the sizes of R51 to R55, in ascending order of their
bases, each beginning where the one before it ends; they cover the window with no gap and no overlap. -/
def Obligations.LayoutCovers : Prop :=
  layout.map (fun r => (r.kind, r.base, r.size)) =
    [(.msip, 0x0000, 0x3FFC), (.padding, 0x3FFC, 4), (.mtimecmp, 0x4000, 0x7FF8), (.mtime, 0xBFF8, 8),
     (.reserved, 0xC000, 0x3000)] ∧
  layout.Pairwise (fun r q => r.base + r.size ≤ q.base) ∧
  (layout.map Region.size).sum = 0xF000 ∧
  (∀ off < 0xF000, ∃! r, r ∈ layout ∧ regionHolds off r = true) ∧
  (∀ off, 0xF000 ≤ off → regionOf off = none)

/-- Which bytes of the window hold state, and what they read as (R21, R22, R24, R25, R34, R35, R51 to R55, R59). The
byte order is the spec's decision D2. -/
def Obligations.WindowBytes : Prop :=
  ∀ (s : State) (off : Nat),
    ((windowByte off s).isSome = true ↔
      off < 4 * Config.numCores ∨ (0x4000 ≤ off ∧ off < 0x4000 + 8 * Config.numCores) ∨
        (0xBFF8 ≤ off ∧ off < 0xC000)) ∧
    (∀ (c : CoreId) (k : Nat), k < 4 → off = 4 * c.val + k →
      windowByte off s = some (if k = 0 ∧ s.msip[c] = true then 1#8 else 0#8)) ∧
    (∀ (c : CoreId) (k : Nat), k < 8 → off = 0x4000 + 8 * c.val + k →
      windowByte off s = some (s.mtimecmp[c].extractLsb' (8 * k) 8)) ∧
    (∀ k : Nat, k < 8 → off = 0xBFF8 + k → windowByte off s = some (s.mtime.extractLsb' (8 * k) 8))

/-- A byte address reaches the block exactly when it lies in the window, with the offset of R50; that a core is
answered `notReached` elsewhere is the model's choice (log 14). -/
def Obligations.ByteAddress : Prop :=
  ∀ (w : Dir) (sz : Size) (addr : Nat) (data : Dword) (s : State),
    ((s.platform.base ≤ addr ∧ addr < s.platform.base + 0xF000) →
      issue (.mem w sz addr data) s
        = issue (.bus ⟨mkKey w sz (BitVec.ofNat 16 (addr - s.platform.base)), data⟩) s) ∧
    (¬(s.platform.base ≤ addr ∧ addr < s.platform.base + 0xF000) →
      ∃ t, issue (.mem w sz addr data) s = .next t ∧ Answered .notReached s t ∧ t.msip = s.msip ∧
        t.mtimecmp = s.mtimecmp)

/-! ### The rows of the decode table -/

/-- `MSIP_RD` (R100); the fault of an unbacked index is the spec's decision D5. -/
def Obligations.MsipRead : Prop :=
  (∀ (K : Key) (data : Dword), K &&& 0x7C003#19 = 0x20000#19 → K ≠ 0x23FFC#19 →
    decode ⟨K, data⟩ = .msipRd (K.extractLsb' 2 12)) ∧
  (∀ (idx : BitVec 12) (s : State) (c : CoreId), idx.toNat = c.val →
    ∃ t, exec (.msipRd idx) s = .next t ∧ Answered (.data32 (if s.msip[c] = true then 1#32 else 0#32)) s t ∧
      t.msip = s.msip ∧ t.mtimecmp = s.mtimecmp) ∧
  (∀ (idx : BitVec 12) (s : State), Config.numCores ≤ idx.toNat →
    ∃ t, exec (.msipRd idx) s = .next t ∧
      FaultTaken .unbackedIndex (some (BitVec.ofNat 16 (4 * idx.toNat))) s t)

/-- `MSIP_WR` (R101): bit 0 of the data is stored, the rest discarded (R23), and the level follows (R26, the spec's
decision D33); the fault of an unbacked index is the spec's decision D5. -/
def Obligations.MsipWrite : Prop :=
  (∀ (K : Key) (data : Dword), K &&& 0x7C003#19 = 0x60000#19 → K ≠ 0x63FFC#19 →
    decode ⟨K, data⟩ = .msipWr (K.extractLsb' 2 12) (data.extractLsb' 0 32)) ∧
  (∀ (idx : BitVec 12) (wdata : Word) (s : State) (c : CoreId), idx.toNat = c.val →
    ∃ t, exec (.msipWr idx wdata) s = .next t ∧ Answered .done s t ∧
      t.msip[c] = wdata[0] ∧ (∀ d : CoreId, d ≠ c → t.msip[d] = s.msip[d]) ∧ t.mtimecmp = s.mtimecmp ∧
      msipIrq c t = wdata[0]) ∧
  (∀ (idx : BitVec 12) (wdata : Word) (s : State), Config.numCores ≤ idx.toNat →
    ∃ t, exec (.msipWr idx wdata) s = .next t ∧
      FaultTaken .unbackedIndex (some (BitVec.ofNat 16 (4 * idx.toNat))) s t)

/-- `MTIMECMP_RD_LO` (R102); the fault of an unbacked index is the spec's decision D5. -/
def Obligations.MtimecmpReadLo : Prop :=
  (∀ (K : Key) (data : Dword), K &&& 0x7C007#19 = 0x34000#19 →
    decode ⟨K, data⟩ = .mtimecmpRdLo (K.extractLsb' 3 11)) ∧
  (∀ (i : BitVec 11) (s : State) (c : CoreId), i.toNat = c.val →
    ∃ t, exec (.mtimecmpRdLo i) s = .next t ∧ Answered (.data64 s.mtimecmp[c]) s t ∧
      t.msip = s.msip ∧ t.mtimecmp = s.mtimecmp) ∧
  (∀ (i : BitVec 11) (s : State), Config.numCores ≤ i.toNat →
    ∃ t, exec (.mtimecmpRdLo i) s = .next t ∧
      FaultTaken .unbackedIndex (some (BitVec.ofNat 16 (0x4000 + 8 * i.toNat))) s t)

/-- `MTIMECMP_RD_HI` (R103): with two cores every key of the row faults (the spec's decision D5). -/
def Obligations.MtimecmpReadHi : Prop :=
  (∀ (K : Key) (data : Dword), K &&& 0x7C007#19 = 0x38000#19 → K ≠ 0x3BFF8#19 →
    decode ⟨K, data⟩ = .mtimecmpRdHi (K.extractLsb' 3 11)) ∧
  (∀ (i : BitVec 11) (s : State),
    ∃ t, exec (.mtimecmpRdHi i) s = .next t ∧
      FaultTaken .unbackedIndex (some (BitVec.ofNat 16 (0x4000 + 8 * (2048 + i.toNat)))) s t)

/-- `MTIMECMP_WR_LO` (R104): all 64 bits are stored, and the timer level is recomputed (R205, the spec's decision
D12); the fault of an unbacked index is the spec's decision D5. -/
def Obligations.MtimecmpWriteLo : Prop :=
  (∀ (K : Key) (data : Dword), K &&& 0x7C007#19 = 0x74000#19 →
    decode ⟨K, data⟩ = .mtimecmpWrLo (K.extractLsb' 3 11) data) ∧
  (∀ (i : BitVec 11) (wdata : Dword) (s : State) (c : CoreId), i.toNat = c.val →
    ∃ t, exec (.mtimecmpWrLo i wdata) s = .next t ∧ Answered .done s t ∧
      t.mtimecmp[c] = wdata ∧ (∀ d : CoreId, d ≠ c → t.mtimecmp[d] = s.mtimecmp[d]) ∧ t.msip = s.msip ∧
      (mtipIrq c t = true ↔ wdata ≤ s.mtime)) ∧
  (∀ (i : BitVec 11) (wdata : Dword) (s : State), Config.numCores ≤ i.toNat →
    ∃ t, exec (.mtimecmpWrLo i wdata) s = .next t ∧
      FaultTaken .unbackedIndex (some (BitVec.ofNat 16 (0x4000 + 8 * i.toNat))) s t)

/-- `MTIMECMP_WR_HI` (R105): with two cores every key of the row faults (the spec's decision D5). -/
def Obligations.MtimecmpWriteHi : Prop :=
  (∀ (K : Key) (data : Dword), K &&& 0x7C007#19 = 0x78000#19 → K ≠ 0x7BFF8#19 →
    decode ⟨K, data⟩ = .mtimecmpWrHi (K.extractLsb' 3 11) data) ∧
  (∀ (i : BitVec 11) (wdata : Dword) (s : State),
    ∃ t, exec (.mtimecmpWrHi i wdata) s = .next t ∧
      FaultTaken .unbackedIndex (some (BitVec.ofNat 16 (0x4000 + 8 * (2048 + i.toNat)))) s t)

/-- `MTIME_RD` (R106). -/
def Obligations.MtimeRead : Prop :=
  (∀ data : Dword, decode ⟨0x3BFF8#19, data⟩ = .mtimeRd) ∧
  (∀ s : State, ∃ t, exec .mtimeRd s = .next t ∧ Answered (.data64 s.mtime) s t ∧ t.msip = s.msip ∧
    t.mtimecmp = s.mtimecmp)

/-- `MTIME_WR` (R107): the write faults, and MTIME is unchanged (the spec's decision D8). -/
def Obligations.MtimeWrite : Prop :=
  (∀ data : Dword, decode ⟨0x7BFF8#19, data⟩ = .mtimeWr data) ∧
  (∀ (wdata : Dword) (s : State), ∃ t, exec (.mtimeWr wdata) s = .next t ∧
    FaultTaken .readOnly (some 0xBFF8#16) s t)

/-- `PAD_ACCESS` (R108): any access at offset 0x3FFC faults (the spec's decision D6). -/
def Obligations.PadAccess : Prop :=
  (∀ (K : Key) (data : Dword), K &&& 0x0FFFF#19 = 0x03FFC#19 → rowOf (decode ⟨K, data⟩) = .padAccess) ∧
  (∀ (w : Dir) (sz : Size) (s : State), ∃ t, exec (.padAccess w sz) s = .next t ∧
    FaultTaken .reserved (some 0x3FFC#16) s t)

/-- `OUTSIDE` (R110): any access at an offset from 0xF000 on faults (the spec's decision D7). -/
def Obligations.OutsideAccess : Prop :=
  (∀ (K : Key) (data : Dword), K &&& 0x0F000#19 = 0x0F000#19 → ∃ w sz,
    decode ⟨K, data⟩ = .outside w sz (K.extractLsb' 0 12)) ∧
  (∀ (w : Dir) (sz : Size) (low : BitVec 12) (s : State), ∃ t, exec (.outside w sz low) s = .next t ∧
    FaultTaken .outsideBlock (some (BitVec.ofNat 16 (0xF000 + low.toNat))) s t)

/-- `RSV_ACCESS` (R109): any access at an offset from 0xC000 to 0xEFFF faults (the spec's decision D6). -/
def Obligations.ReservedAccess : Prop :=
  (∀ (K : Key) (data : Dword), K &&& 0x0C000#19 = 0x0C000#19 → K &&& 0x0F000#19 ≠ 0x0F000#19 → ∃ w sz,
    decode ⟨K, data⟩ = .rsvAccess w sz (K.extractLsb' 0 14)) ∧
  (∀ (w : Dir) (sz : Size) (low : BitVec 14) (s : State), ∃ t, exec (.rsvAccess w sz low) s = .next t ∧
    FaultTaken .reserved (some (BitVec.ofNat 16 (0xC000 + low.toNat))) s t)

/-- `BAD_ACCESS` (R111): every key no earlier row takes faults (the spec's decisions D3 and D4). -/
def Obligations.BadAccess : Prop :=
  (∀ (K : Key) (data : Dword), rowOf (decode ⟨K, data⟩) = .badAccess → ∃ w sz,
    decode ⟨K, data⟩ = .badAccess w sz (K.extractLsb' 0 16)) ∧
  (∀ (w : Dir) (sz : Size) (off : Offset) (s : State), ∃ t, exec (.badAccess w sz off) s = .next t ∧
    FaultTaken .badAccess (some off) s t)

/-! ### Frames of the transactions -/

/-- Every transaction answers a next state, and the fields it may change are MSIP, MTIMECMP, the fault records, and
the issuer's own position and answer (R25, R27, R112, and for a fault R180): LSIE, `mapped`, MTIME and all other
fields stay, and so do the position and the answer of each other core, and whether it has stopped. Which MSIP and
MTIMECMP register a row writes is said by the statement on that row. -/
def Obligations.TransactionFrames : Prop :=
  ∀ (i : Instr) (s : State), ∃ t, exec i s = .next t ∧ TransactionFrame s t

/-- A read has no side effect on any register (R64). -/
def Obligations.ReadsKeepRegisters : Prop :=
  ∀ (r : BusReq) (s : State), r.key[18] = false → ∃ t, exec (decode r) s = .next t ∧
    t.msip = s.msip ∧ t.mtimecmp = s.mtimecmp ∧ t.mtime = s.mtime ∧ t.lsie = s.lsie ∧ t.mapped = s.mapped

/-- Every byte of the window outside the bytes a transaction stores to reads as before; the offset stored to is
the one the row's index gives (R36, R51, R53). -/
def Obligations.ByteFrame : Prop :=
  ∀ (i : Instr) (s t : State) (off : Nat), exec i s = .next t →
    (∀ a n, storeRange i = some (a, n) → off < a ∨ a + n ≤ off) → windowByte off t = windowByte off s

/-- Writing the same bit to an MSIP register twice leaves the state as writing it once does (R65). -/
def Obligations.MsipIdempotent : Prop :=
  ∀ (idx : BitVec 12) (v v' : Word) (s t : State), v[0] = v'[0] → exec (.msipWr idx v) s = .next t →
    exec (.msipWr idx v') t = .next t

/-- What a backed MSIP register reads as after a write: bit 0 of the data, and bits 31 to 1 zero (R22, R23). -/
def Obligations.MsipReadsBackBit0 : Prop :=
  ∀ (idx : BitVec 12) (v : Word) (s : State) (c : CoreId), idx.toNat = c.val →
    (∃ u, exec (.msipRd idx) s = .next u ∧ u.reply[s.self] = .data32 (if s.msip[c] = true then 1#32 else 0#32)) ∧
    (∃ t u, exec (.msipWr idx v) s = .next t ∧ t.msip[c] = v[0] ∧ exec (.msipRd idx) t = .next u ∧
      u.reply[s.self] = .data32 (if v[0] = true then 1#32 else 0#32))

/-! ### The boundary -/

/-- A step runs the decoded transaction: when core `c` moves next and issues a transaction, the step is exec of
what the key decodes to, on the state whose schedule and program have moved on, whose issuer is `c`, and whose
order `<B` holds the transaction. -/
def Obligations.StepRunsDecoded : Prop :=
  ∀ (c : CoreId) (r : BusReq) (rest : List Request) (moves : List Move) (s : State),
    s.schedule = .core c :: moves → Issues c (.bus r) rest s →
      step s = exec (decode r) (logTransaction r (begun c rest (setSchedule moves s)))

/-- A window request from a mode other than machine mode is refused (R78, R90; the spec's decision D16). That an
atomic access or a fetch from such a mode is refused, and does not fault AtomicAccess or Fetch, is the model's order
of the checks of R90 (log 13). -/
def Obligations.OtherModeRefused : Prop :=
  ∀ (c : CoreId) (q : Request) (rest : List Request) (s : State),
    stopped c s = false → s.core[c].waiting = false → s.core[c].mode = .other → s.position[c] = .idle →
    s.program[c] = q :: rest →
    ((∃ r, q = .bus r) ∨
      (∃ a, (s.platform.base ≤ a ∧ a < s.platform.base + 0xF000) ∧
        (q = .atomic a ∨ q = .fetch a ∨ ∃ w sz d, q = .mem w sz a d))) →
    runMove (.core c) s = .refused (.notMachineMode c)

/-- An atomic read-modify-write aimed at the window faults AtomicAccess (R74, the spec's decision D14), and an
instruction fetch from it faults Fetch (R75, D15). -/
def Obligations.AtomicAndFetchFault : Prop :=
  ∀ (c : CoreId) (a : Nat) (rest : List Request) (s : State),
    (s.platform.base ≤ a ∧ a < s.platform.base + 0xF000) →
    (Issues c (.atomic a) rest s → ∃ t, runMove (.core c) s = .next t ∧
      FaultTaken .atomicAccess (some (BitVec.ofNat 16 (a - s.platform.base))) (begun c rest s) t) ∧
    (Issues c (.fetch a) rest s → ∃ t, runMove (.core c) s = .next t ∧
      FaultTaken .fetch (some (BitVec.ofNat 16 (a - s.platform.base))) (begun c rest s) t)

/-! ### Host operations -/

/-- `read_msip` (R144); the faults are the spec's decisions D5, D21 and D32. That an index out of range raises
Precondition whether or not the window is mapped rests on the order of the checks (R141, the spec's decision D22,
log 20). -/
def Obligations.ReadMsip : Prop :=
  ∀ (c : CoreId) (i : Nat) (rest : List Request) (s : State), Issues c (.op (.readMsip i)) rest s →
    ∃ t, runMove (.core c) s = .next t ∧
      (4095 ≤ i → FaultTaken .precondition none (begun c rest s) t) ∧
      (i < 4095 → s.mapped = false → FaultTaken .notMapped none (begun c rest s) t) ∧
      (i < 4095 → s.mapped = true → Config.numCores ≤ i →
        FaultTaken .unbackedIndex (some (BitVec.ofNat 16 (4 * i)))
          (logTransaction (rd32 (BitVec.ofNat 16 (4 * i))) (begun c rest s)) t) ∧
      (∀ d : CoreId, i = d.val → s.mapped = true →
        OpFrame c s t ∧ t.program[c] = rest ∧ t.position[c] = .idle ∧ t.reply[c] = .bit s.msip[d] ∧
        t.msip = s.msip ∧ t.lsie = s.lsie ∧ t.mapped = s.mapped ∧
        t.history = (c, rd32 (BitVec.ofNat 16 (4 * i))) :: s.history)

/-- `write_msip` (R145); the faults are the spec's decisions D5, D21 and D32. That an index out of range raises
Precondition whether or not the window is mapped rests on the order of the checks (R141, the spec's decision D22,
log 20). -/
def Obligations.WriteMsip : Prop :=
  ∀ (c : CoreId) (i : Nat) (b : Bool) (rest : List Request) (s : State),
    Issues c (.op (.writeMsip i b)) rest s →
    ∃ t, runMove (.core c) s = .next t ∧
      (4095 ≤ i → FaultTaken .precondition none (begun c rest s) t) ∧
      (i < 4095 → s.mapped = false → FaultTaken .notMapped none (begun c rest s) t) ∧
      (i < 4095 → s.mapped = true → Config.numCores ≤ i →
        FaultTaken .unbackedIndex (some (BitVec.ofNat 16 (4 * i)))
          (logTransaction (wr32 (BitVec.ofNat 16 (4 * i)) (if b then 1#32 else 0#32)) (begun c rest s)) t) ∧
      (∀ d : CoreId, i = d.val → s.mapped = true →
        OpFrame c s t ∧ t.program[c] = rest ∧ t.position[c] = .idle ∧ t.reply[c] = .done ∧
        t.msip[d] = b ∧ (∀ e : CoreId, e ≠ d → t.msip[e] = s.msip[e]) ∧
        t.lsie = s.lsie ∧ t.mapped = s.mapped ∧
        t.history = (c, wr32 (BitVec.ofNat 16 (4 * i)) (if b then 1#32 else 0#32)) :: s.history)

/-- `send` (R156): one write of 1, or an error with no transaction. The order of the checks and AccessFailure are as
R156 has them (the spec's decisions D21 and D22). -/
def Obligations.Send : Prop :=
  ∀ (c : CoreId) (i : Nat) (rest : List Request) (s : State), Issues c (.op (.send i)) rest s →
    ∃ t, runMove (.core c) s = .next t ∧ OpFrame c s t ∧ t.program[c] = rest ∧ t.position[c] = .idle ∧
      t.lsie = s.lsie ∧ t.mapped = s.mapped ∧
      (Config.numCores ≤ i → t.reply[c] = .send .outOfRange ∧ t.msip = s.msip ∧ t.history = s.history) ∧
      (i < Config.numCores → s.mapped = false →
        t.reply[c] = .send .accessFailure ∧ t.msip = s.msip ∧ t.history = s.history) ∧
      (∀ d : CoreId, i = d.val → s.mapped = true →
        t.reply[c] = .send .ok ∧ t.msip[d] = true ∧ (∀ e : CoreId, e ≠ d → t.msip[e] = s.msip[e]) ∧
        t.history = (c, wr32 (BitVec.ofNat 16 (4 * i)) 1#32) :: s.history)

/-- `clear`, step 1 (R158): the checks, or the read, which changes no register. -/
def Obligations.ClearReads : Prop :=
  ∀ (c : CoreId) (i : Nat) (rest : List Request) (s : State), Issues c (.op (.clear i)) rest s →
    ∃ t, runMove (.core c) s = .next t ∧ OpFrame c s t ∧ t.program[c] = rest ∧ t.msip = s.msip ∧
      t.lsie = s.lsie ∧ t.mapped = s.mapped ∧
      (Config.numCores ≤ i →
        t.reply[c] = .clear .outOfRange ∧ t.position[c] = .idle ∧ t.history = s.history) ∧
      (i < Config.numCores → s.mapped = false →
        t.reply[c] = .clear .accessFailure ∧ t.position[c] = .idle ∧ t.history = s.history) ∧
      (∀ d : CoreId, i = d.val → s.mapped = true →
        t.position[c] = .clearWrite i s.msip[d] ∧
        t.history = (c, rd32 (BitVec.ofNat 16 (4 * i))) :: s.history)

/-- `clear`, step 2 (R158 to R160): it writes 0 whatever step 1 read, and reports what step 1 read; if the mapping
has been torn down it reports AccessFailure and writes nothing. -/
def Obligations.ClearWrites : Prop :=
  ∀ (c d : CoreId) (b : Bool) (s : State), Able c s → s.position[c] = .clearWrite d.val b →
    ∃ t, runMove (.core c) s = .next t ∧ OpFrame c s t ∧ t.program = s.program ∧ t.position[c] = .idle ∧
      t.lsie = s.lsie ∧ t.mapped = s.mapped ∧
      (s.mapped = false → t.reply[c] = .clear .accessFailure ∧ t.msip = s.msip ∧ t.history = s.history) ∧
      (s.mapped = true →
        t.reply[c] = .clear (if b then .pendingCleared else .nothingPending) ∧ t.msip[d] = false ∧
        (∀ e : CoreId, e ≠ d → t.msip[e] = s.msip[e]) ∧
        t.history = (c, wr32 (BitVec.ofNat 16 (4 * d.val)) 0#32) :: s.history)

/-- A first `init` with nothing interleaved (R149, R151, R152): two steps, which map the window and clear every
MSIP bit in ascending order. -/
def Obligations.InitFirstCall : Prop :=
  ∀ (c : CoreId) (rest : List Request) (s : State), Issues c (.op .init) rest s → s.mapped = false →
    s.platform.mapAvailable = true →
    ∃ t u, runMove (.core c) s = .next t ∧ runMove (.core c) t = .next u ∧
      t.mapped = true ∧ t.position[c] = .initClear [1] ∧ t.msip[core0] = false ∧ t.msip[core1] = s.msip[core1] ∧
      OpFrame c s u ∧ u.position[c] = .idle ∧ u.program[c] = rest ∧ u.reply[c] = .init .ok ∧ u.mapped = true ∧
      (∀ d : CoreId, u.msip[d] = false) ∧ u.lsie = s.lsie ∧
      u.history = (c, wr32 0x0004#16 0#32) :: (c, wr32 0x0000#16 0#32) :: s.history

/-- When `init` reports ConfigurationError in its first step (R150, R151): a core count above the maximum, or no
mapping to be had; nothing is written. -/
def Obligations.InitFails : Prop :=
  (∀ n : Nat, tooManyCores n = true ↔ 4095 < n) ∧
  (∀ (c : CoreId) (rest : List Request) (s : State), Issues c (.op .init) rest s → s.mapped = false →
    s.platform.mapAvailable = false →
    ∃ t, runMove (.core c) s = .next t ∧ OpFrame c s t ∧ t.position[c] = .idle ∧ t.program[c] = rest ∧
      t.reply[c] = .init .configurationError ∧ t.mapped = false ∧ t.msip = s.msip ∧ t.lsie = s.lsie ∧
      t.history = s.history)

/-- A later `init` (R153) clears any subset of the bits, in ascending order, and writes nothing but zeros: its first
step clears at most one bit, and either ends with Ok or leaves indices to be cleared. -/
def Obligations.InitLaterCall : Prop :=
  ∀ (c : CoreId) (rest : List Request) (s : State), Issues c (.op .init) rest s → s.mapped = true →
    ∃ t, runMove (.core c) s = .next t ∧ OpFrame c s t ∧ t.program[c] = rest ∧ t.mapped = true ∧ t.lsie = s.lsie ∧
      ((t.msip = s.msip ∧ t.history = s.history ∧ t.position[c] = .idle ∧ t.reply[c] = .init .ok) ∨
       (∃ d : CoreId, t.msip[d] = false ∧ (∀ e : CoreId, e ≠ d → t.msip[e] = s.msip[e]) ∧
         t.history = (c, wr32 (BitVec.ofNat 16 (4 * d.val)) 0#32) :: s.history ∧
         ((t.position[c] = .idle ∧ t.reply[c] = .init .ok) ∨
          (∃ todo, t.position[c] = .initClear todo ∧ todo ≠ [] ∧
            ∀ i ∈ todo, d.val < i ∧ i < Config.numCores))))

/-- A clearing step of `init` after the first (R147, R152, R153): the next index is cleared, or the mapping is gone
and `init` reports ConfigurationError. -/
def Obligations.InitContinues : Prop :=
  ∀ (c d : CoreId) (more : List Nat) (s : State), Able c s → s.position[c] = .initClear (d.val :: more) →
    ∃ t, runMove (.core c) s = .next t ∧ OpFrame c s t ∧ t.program = s.program ∧ t.lsie = s.lsie ∧
      t.mapped = s.mapped ∧
      (s.mapped = false → t.position[c] = .idle ∧ t.reply[c] = .init .configurationError ∧ t.msip = s.msip ∧
        t.history = s.history) ∧
      (s.mapped = true → t.msip[d] = false ∧ (∀ e : CoreId, e ≠ d → t.msip[e] = s.msip[e]) ∧
        t.history = (c, wr32 (BitVec.ofNat 16 (4 * d.val)) 0#32) :: s.history ∧
        (more = [] → t.position[c] = .idle ∧ t.reply[c] = .init .ok) ∧
        (more ≠ [] → t.position[c] = .initClear more))

/-- `enable` (R154) and `disable` (R155): they write LSIE of the calling core only, or report that the mechanism is
unavailable; no transaction, and no pending bit is cleared: it is deliverable at once after `enable`, and not after
`disable`. -/
def Obligations.EnableDisable : Prop :=
  ∀ (c : CoreId) (on : Bool) (rest : List Request) (s : State),
    Issues c (.op (if on then .enable else .disable)) rest s →
    ∃ t, runMove (.core c) s = .next t ∧ OpFrame c s t ∧ t.program[c] = rest ∧ t.position[c] = .idle ∧
      t.msip = s.msip ∧ t.mapped = s.mapped ∧ t.history = s.history ∧
      (s.platform.enableAvailable[c] = true → t.reply[c] = .mask .ok ∧ t.lsie[c] = on ∧
        (∀ d : CoreId, d ≠ c → t.lsie[d] = s.lsie[d]) ∧
        (s.msip[c] = true → s.core[c].accepts = true →
          ((∃ u, runMove (.takeMsi c) t = .next u) ↔ on = true))) ∧
      (s.platform.enableAvailable[c] = false → t.reply[c] = .mask .unavailableMechanism ∧ t.lsie = s.lsie)

/-- The table of the per-core state machine (R28, R161), each cell with no step of another agent in between: where
the core acted on stands afterwards, and that no other core moves in it. -/
def Obligations.IpiStateMachine : Prop :=
  ∀ (c d : CoreId) (rest : List Request) (s : State), s.mapped = true →
    (Issues c (.op .enable) rest s → s.platform.enableAvailable[c] = true →
      ∃ t, runMove (.core c) s = .next t ∧ ipiState c t = afterEnable (ipiState c s) ∧
        ∀ e : CoreId, e ≠ c → ipiState e t = ipiState e s) ∧
    (Issues c (.op .disable) rest s → s.platform.enableAvailable[c] = true →
      ∃ t, runMove (.core c) s = .next t ∧ ipiState c t = afterDisable (ipiState c s) ∧
        ∀ e : CoreId, e ≠ c → ipiState e t = ipiState e s) ∧
    (Issues c (.op (.send d.val)) rest s →
      ∃ t, runMove (.core c) s = .next t ∧ ipiState d t = afterSend (ipiState d s) ∧
        ∀ e : CoreId, e ≠ d → ipiState e t = ipiState e s) ∧
    (Issues c (.op (.clear d.val)) rest s →
      ∃ t u, runMove (.core c) s = .next t ∧ runMove (.core c) t = .next u ∧
        ipiState d u = (afterClear (ipiState d s)).1 ∧ u.reply[c] = .clear (afterClear (ipiState d s)).2 ∧
        ∀ e : CoreId, e ≠ d → ipiState e u = ipiState e s)

/-! ### Interleavings -/

/-- Two calls of `clear` in a row, with nothing between their steps (R158, R159): the first reports whether the bit
was 1, the second reports that nothing was pending, and both leave the bit 0. -/
def Obligations.ClearTwice : Prop :=
  ∀ (c d : CoreId) (rest : List Request) (s : State),
    Issues c (.op (.clear d.val)) (.op (.clear d.val) :: rest) s → s.mapped = true →
    ∃ t u v w, runMove (.core c) s = .next t ∧ runMove (.core c) t = .next u ∧ runMove (.core c) u = .next v ∧
      runMove (.core c) v = .next w ∧
      u.reply[c] = .clear (if s.msip[d] = true then .pendingCleared else .nothingPending) ∧ u.msip[d] = false ∧
      w.reply[c] = .clear .nothingPending ∧ w.msip[d] = false

/-- Masking does not clear (R188): while LSIE of a core is 0, no move of any agent changes its MSIP bit, unless it
puts a write of that bit into the order `<B`, and the interrupt is not delivered; `disable` keeps every MSIP bit; and
a `send` to a core whose LSIE is 0 still sets its bit. -/
def Obligations.MaskingKeepsPending : Prop :=
  (∀ (c : CoreId) (m : Move) (s t : State), s.lsie[c] = false → runMove m s = .next t → NoMsipWrite c s t →
    t.msip[c] = s.msip[c]) ∧
  (∀ (c : CoreId) (s t : State), s.lsie[c] = false → runMove (.takeMsi c) s ≠ .next t) ∧
  (∀ (c : CoreId) (rest : List Request) (s : State), Issues c (.op .disable) rest s →
    ∃ t, runMove (.core c) s = .next t ∧ t.msip = s.msip) ∧
  (∀ (c d : CoreId) (rest : List Request) (s : State), Issues c (.op (.send d.val)) rest s → s.mapped = true →
    s.lsie[d] = false →
    ∃ t, runMove (.core c) s = .next t ∧ t.msip[d] = true ∧ t.lsie[d] = false ∧
      ∀ u, runMove (.takeMsi d) t ≠ .next u)

/-- The send lost inside `clear` (R232): another core's `send` between the read and the write returns Ok, and the
bit is 0 afterwards; `clear` reports the bit as it read it. -/
def Obligations.LostSend : Prop :=
  ∀ (c d e : CoreId) (rc rd : List Request) (s : State), c ≠ d → s.mapped = true →
    Issues c (.op (.clear e.val)) rc s → Issues d (.op (.send e.val)) rd s →
    ∃ t u v, runMove (.core c) s = .next t ∧ runMove (.core d) t = .next u ∧ runMove (.core c) u = .next v ∧
      u.msip[e] = true ∧ u.reply[d] = .send .ok ∧ v.reply[d] = .send .ok ∧ v.msip[e] = false ∧
      v.reply[c] = .clear (if s.msip[e] = true then .pendingCleared else .nothingPending)

/-- The MSIP cells are independent (R36): a transaction on one writes only that one and reads only that one; and two
cores sending to two targets do not interfere: both orders end with both bits set, and the same registers. -/
def Obligations.MsipCellsIndependent : Prop :=
  (∀ (idx : BitVec 12) (v : Word) (s t : State) (d : CoreId), exec (.msipWr idx v) s = .next t → d.val ≠ idx.toNat →
    t.msip[d] = s.msip[d]) ∧
  (∀ (idx : BitVec 12) (s s' t t' : State) (c : CoreId), idx.toNat = c.val → s.msip[c] = s'.msip[c] →
    exec (.msipRd idx) s = .next t → exec (.msipRd idx) s' = .next t' → t.reply[s.self] = t'.reply[s'.self]) ∧
  (∀ (c d i j : CoreId) (rc rd : List Request) (s : State), c ≠ d → i ≠ j → s.mapped = true →
    Issues c (.op (.send i.val)) rc s → Issues d (.op (.send j.val)) rd s →
    ∃ t u t' u', runMove (.core c) s = .next t ∧ runMove (.core d) t = .next u ∧
      runMove (.core d) s = .next t' ∧ runMove (.core c) t' = .next u' ∧
      u.msip[i] = true ∧ u.msip[j] = true ∧ u.msip = u'.msip ∧ u.reply = u'.reply ∧
      u.reply[c] = .send .ok ∧ u.reply[d] = .send .ok)

/-- The core that has taken its software interrupt next reads its bit as 1, whatever the agents do in between, as
long as none of them writes that bit (R77): through `read_msip`, through the read of `clear`, and through a read of
the register itself. -/
def Obligations.TrapThenRead : Prop :=
  ∀ (b : CoreId) (rest : List Request) (s t u : State), runMove (.takeMsi b) s = .next t → Undisturbed b t u →
    (Issues b (.op (.readMsip b.val)) rest u → u.mapped = true →
      ∃ v, runMove (.core b) u = .next v ∧ v.reply[b] = .bit true) ∧
    (Issues b (.op (.clear b.val)) rest u → u.mapped = true →
      ∃ v, runMove (.core b) u = .next v ∧ v.position[b] = .clearWrite b.val true) ∧
    (Issues b (.bus (rd32 (msipOffset (BitVec.ofNat 12 b.val)))) rest u →
      ∃ v, runMove (.core b) u = .next v ∧ v.reply[b] = .data32 1#32)

/-- Each register holds the last value that the order `<B` gives it, or its reset value (R69, R71): every step keeps
it. -/
def Obligations.OrderKept : Prop :=
  ∀ (m0 : CoreId → Bool) (t0 : CoreId → Dword) (s t : State),
    FollowsOrder m0 t0 s → step s = .next t → FollowsOrder m0 t0 t

/-- Each step puts at most one transaction into `<B`, after all earlier ones (R63, R66, R143). -/
def Obligations.OneTransactionAStep : Prop :=
  ∀ s t : State, step s = .next t → t.history = s.history ∨ ∃ c r, t.history = (c, r) :: s.history

/-! ### Interrupts, Tick and Env -/

/-- `TakeMSI(c)` is enabled exactly when the level, the enable and the core's acceptance say so, and it changes no
state of the block (R192, R193). -/
def Obligations.TakeMsi : Prop :=
  ∀ (c : CoreId) (s : State),
    ((∃ t, runMove (.takeMsi c) s = .next t) ↔
      stopped c s = false ∧ s.msip[c] = true ∧ s.lsie[c] = true ∧ s.core[c].accepts = true) ∧
    (∀ t, runMove (.takeMsi c) s = .next t →
      t.msip = s.msip ∧ t.mtimecmp = s.mtimecmp ∧ t.mtime = s.mtime ∧ t.lsie = s.lsie ∧ t.mapped = s.mapped ∧
      t.faults = s.faults ∧ t.position = s.position ∧ t.history = s.history ∧
      t.core[c].handler = some .msi ∧ (∀ d : CoreId, d ≠ c → t.core[d] = s.core[d]))

/-- `TakeMTI(c)`, defined like R192 (R205): the timer level compares unsigned. -/
def Obligations.TakeMti : Prop :=
  ∀ (c : CoreId) (s : State),
    ((∃ t, runMove (.takeMti c) s = .next t) ↔
      stopped c s = false ∧ s.mtimecmp[c] ≤ s.mtime ∧ s.core[c].mtie = true ∧ s.core[c].accepts = true) ∧
    (∀ t, runMove (.takeMti c) s = .next t →
      t.msip = s.msip ∧ t.mtimecmp = s.mtimecmp ∧ t.mtime = s.mtime ∧ t.lsie = s.lsie ∧ t.mapped = s.mapped ∧
      t.faults = s.faults ∧ t.position = s.position ∧ t.history = s.history ∧
      t.core[c].handler = some .mti ∧ (∀ d : CoreId, d ≠ c → t.core[d] = s.core[d]))

/-- A pending MSI ends a core's wait state exactly where the OPEN parameter MSI_WAKES says so (R209); that the wait
state is a step of its own is the model's choice (log 24). -/
def Obligations.WakeStep : Prop :=
  ∀ (c : CoreId) (s : State),
    ((∃ t, runMove (.wake c) s = .next t) ↔
      stopped c s = false ∧ s.core[c].waiting = true ∧ s.msip[c] = true ∧ s.core[c].wakes = true) ∧
    (∀ t, runMove (.wake c) s = .next t → t.core[c].waiting = false ∧
      (∀ d : CoreId, d ≠ c → t.core[d] = s.core[d]) ∧ t.msip = s.msip ∧ t.mtimecmp = s.mtimecmp ∧
      t.mtime = s.mtime ∧ t.lsie = s.lsie ∧ t.mapped = s.mapped ∧ t.faults = s.faults ∧ t.position = s.position)

/-- MTIME changes by Tick alone, which adds 1 modulo 2^64 (R25, R206). -/
def Obligations.OnlyTickCounts : Prop :=
  (∀ s : State, ∃ t, runMove .tick s = .next t ∧ t.mtime.toNat = (s.mtime.toNat + 1) % 2 ^ 64 ∧
    t.msip = s.msip ∧ t.mtimecmp = s.mtimecmp ∧ t.lsie = s.lsie ∧ t.mapped = s.mapped ∧ t.faults = s.faults) ∧
  (∀ (m : Move) (s t : State), m ≠ .tick → runMove m s = .next t → t.mtime = s.mtime)

/-- LSIE of a core changes only by that core's own `enable` or `disable` (R27). -/
def Obligations.OnlyOwnEnable : Prop :=
  ∀ (m : Move) (s t : State) (c : CoreId), runMove m s = .next t → t.lsie[c] ≠ s.lsie[c] →
    m = .core c ∧ s.position[c] = .idle ∧
      ∃ rest, s.program[c] = .op .enable :: rest ∨ s.program[c] = .op .disable :: rest

/-- The mapping is set up by `init` alone and torn down by Env alone (R29, R148, R151); Env can tear it down in every
state, and that changes nothing else (R148). -/
def Obligations.MappingChanges : Prop :=
  (∀ s : State, ∃ t, runMove .teardown s = .next t ∧ t.mapped = false ∧ t.msip = s.msip ∧ t.mtimecmp = s.mtimecmp ∧
    t.mtime = s.mtime ∧ t.lsie = s.lsie ∧ t.faults = s.faults ∧ t.position = s.position ∧ t.core = s.core ∧
    t.platform = s.platform ∧ t.program = s.program ∧ t.reply = s.reply ∧ t.history = s.history) ∧
  ∀ (m : Move) (s t : State), runMove m s = .next t →
    (s.mapped = true → t.mapped = false → m = .teardown) ∧
    (s.mapped = false → t.mapped = true → ∃ c rest, m = .core c ∧ s.position[c] = .idle ∧
      s.program[c] = .op .init :: rest ∧ s.platform.mapAvailable = true)

/-- In a run in which Tick fires infinitely often, MTIME takes every value (R206, R207). -/
def Obligations.FairTickReaches : Prop :=
  ∀ r : Run, TickFair r → ∀ v : Dword, ∃ n, (r.states n).mtime = v

/-! ### Faults and invariants -/

/-- An agent that has faulted has no further step (R180). -/
def Obligations.StoppedAgentStays : Prop :=
  ∀ (c : CoreId) (s : State), stopped c s = true →
    runMove (.core c) s = .fault (.agentStopped c) ∧ runMove (.takeMsi c) s = .fault (.agentStopped c) ∧
    runMove (.takeMti c) s = .fault (.agentStopped c) ∧ runMove (.wake c) s = .fault (.agentStopped c)

/-- No step removes a fault record, and each step adds at most one (R30, R180). -/
def Obligations.FaultsKept : Prop :=
  ∀ s t : State, step s = .next t →
    (∀ r ∈ s.faults, r ∈ t.faults) ∧ (∃ r, ∀ x ∈ t.faults, x ∈ s.faults ∨ x = r)

/-- A core in machine mode that can step and has something to do always has a next state: no operation blocks or
aborts (R142). -/
def Obligations.CoreStepAnswers : Prop :=
  ∀ (c : CoreId) (s : State), Able c s → s.position[c] ≠ .idle ∨ s.program[c] ≠ [] →
    ∃ t, runMove (.core c) s = .next t

/-- Every step keeps the invariant of the bookkeeping (R30, R32, R180): each agent has at most one record, is inside
no operation once it has one, and the positions name backed indices. That the records stand in a list of strictly
rising ranks is the model's form of the set of R30 (log 28). -/
def Obligations.InvKept : Prop :=
  ∀ s t : State, Inv s → step s = .next t → Inv t

/-- The invariant holds after reset, when no fault and no operation is recorded (R226), and so does the one of
`OrderKept`: the order is empty, and the registers hold their reset draws (R69, R221, R224). -/
def Obligations.InvAtReset : Prop :=
  Inv State.reset ∧
    FollowsOrder (fun c => Config.msipReset c.val) (fun c => Config.mtimecmpReset c.val) State.reset

/-- Every core is disabled after reset (R222). -/
def Obligations.ResetDisabled : Prop := ∀ c : CoreId, State.reset.lsie[c] = false

/-- What else reset leaves (R223, the spec's decision D21; R226): no mapping, no fault, no operation in progress, and
no software interrupt deliverable, whatever the MSIP bits are. -/
def Obligations.ResetState : Prop :=
  State.reset.faults = [] ∧ State.reset.mapped = false ∧
  ∀ c : CoreId, State.reset.position[c] = .idle ∧ msipIrq c State.reset = State.reset.msip[c] ∧
    msiEnabled c State.reset = false ∧ ∀ t, runMove (.takeMsi c) State.reset ≠ .next t
end

