-- ==== Sys2Proof/Laws/Decode.lean ====
section
/-! SUPPORT. The decode table bit by bit: when a key fits a row, which row decides it, and the bits of an encoded
key. -/

namespace Sys2Proof

/-- A row's match is zero outside its mask. -/
theorem rowMatch_masked (r : Row) (i : Nat) (hi : i < 19) (h : (rowMask r).getLsbD i = false) :
    (rowMatch r).getLsbD i = false := by
  cases r <;> interval_cases i <;> simp_all [rowMask, rowMatch]

/-- A key fits a row when it has the row's match in every bit of the row's mask. -/
theorem rowFits_iff (k : Key) (r : Row) : rowFits k r = true ↔
    ∀ i : Fin 19, (rowMask r).getLsbD i = true → k.getLsbD i = (rowMatch r).getLsbD i := by
  rw [rowFits, beq_iff_eq]
  constructor
  · intro h i hm
    have := congrArg (fun v => v.getLsbD i.val) h
    simpa only [BitVec.getLsbD_and, hm, Bool.and_true] using this
  · intro h
    refine BitVec.eq_of_getLsbD_eq fun i hi => ?_
    rw [BitVec.getLsbD_and]
    cases hm : (rowMask r).getLsbD i with
    | true => simpa using h ⟨i, hi⟩ hm
    | false => simpa using (rowMatch_masked r i hi hm).symm

theorem fits_padAccess (k : Key) : rowFits k .padAccess = true ↔
    k.getLsbD 0 = false ∧ k.getLsbD 1 = false ∧ k.getLsbD 2 = true ∧ k.getLsbD 3 = true ∧
    k.getLsbD 4 = true ∧ k.getLsbD 5 = true ∧ k.getLsbD 6 = true ∧ k.getLsbD 7 = true ∧ k.getLsbD 8 = true ∧
    k.getLsbD 9 = true ∧ k.getLsbD 10 = true ∧ k.getLsbD 11 = true ∧ k.getLsbD 12 = true ∧
    k.getLsbD 13 = true ∧ k.getLsbD 14 = false ∧ k.getLsbD 15 = false := by
  rw [rowFits_iff]
  simp only [Fin.forall_fin_succ, rowMask, rowMatch]
  simp

theorem fits_outside (k : Key) : rowFits k .outside = true ↔
    k.getLsbD 12 = true ∧ k.getLsbD 13 = true ∧ k.getLsbD 14 = true ∧ k.getLsbD 15 = true := by
  rw [rowFits_iff]
  simp only [Fin.forall_fin_succ, rowMask, rowMatch]
  simp

theorem fits_rsvAccess (k : Key) : rowFits k .rsvAccess = true ↔
    k.getLsbD 14 = true ∧ k.getLsbD 15 = true := by
  rw [rowFits_iff]
  simp only [Fin.forall_fin_succ, rowMask, rowMatch]
  simp

theorem fits_mtimeRd (k : Key) : rowFits k .mtimeRd = true ↔
    k.getLsbD 0 = false ∧ k.getLsbD 1 = false ∧ k.getLsbD 2 = false ∧ k.getLsbD 3 = true ∧
    k.getLsbD 4 = true ∧ k.getLsbD 5 = true ∧ k.getLsbD 6 = true ∧ k.getLsbD 7 = true ∧ k.getLsbD 8 = true ∧
    k.getLsbD 9 = true ∧ k.getLsbD 10 = true ∧ k.getLsbD 11 = true ∧ k.getLsbD 12 = true ∧
    k.getLsbD 13 = true ∧ k.getLsbD 14 = false ∧ k.getLsbD 15 = true ∧ k.getLsbD 16 = true ∧
    k.getLsbD 17 = true ∧ k.getLsbD 18 = false := by
  rw [rowFits_iff]
  simp only [Fin.forall_fin_succ, rowMask, rowMatch]
  simp

theorem fits_mtimeWr (k : Key) : rowFits k .mtimeWr = true ↔
    k.getLsbD 0 = false ∧ k.getLsbD 1 = false ∧ k.getLsbD 2 = false ∧ k.getLsbD 3 = true ∧
    k.getLsbD 4 = true ∧ k.getLsbD 5 = true ∧ k.getLsbD 6 = true ∧ k.getLsbD 7 = true ∧ k.getLsbD 8 = true ∧
    k.getLsbD 9 = true ∧ k.getLsbD 10 = true ∧ k.getLsbD 11 = true ∧ k.getLsbD 12 = true ∧
    k.getLsbD 13 = true ∧ k.getLsbD 14 = false ∧ k.getLsbD 15 = true ∧ k.getLsbD 16 = true ∧
    k.getLsbD 17 = true ∧ k.getLsbD 18 = true := by
  rw [rowFits_iff]
  simp only [Fin.forall_fin_succ, rowMask, rowMatch]
  simp

theorem fits_msipRd (k : Key) : rowFits k .msipRd = true ↔
    k.getLsbD 0 = false ∧ k.getLsbD 1 = false ∧ k.getLsbD 14 = false ∧ k.getLsbD 15 = false ∧
    k.getLsbD 16 = false ∧ k.getLsbD 17 = true ∧ k.getLsbD 18 = false := by
  rw [rowFits_iff]
  simp only [Fin.forall_fin_succ, rowMask, rowMatch]
  simp

theorem fits_msipWr (k : Key) : rowFits k .msipWr = true ↔
    k.getLsbD 0 = false ∧ k.getLsbD 1 = false ∧ k.getLsbD 14 = false ∧ k.getLsbD 15 = false ∧
    k.getLsbD 16 = false ∧ k.getLsbD 17 = true ∧ k.getLsbD 18 = true := by
  rw [rowFits_iff]
  simp only [Fin.forall_fin_succ, rowMask, rowMatch]
  simp

theorem fits_mtimecmpRdLo (k : Key) : rowFits k .mtimecmpRdLo = true ↔
    k.getLsbD 0 = false ∧ k.getLsbD 1 = false ∧ k.getLsbD 2 = false ∧ k.getLsbD 14 = true ∧
    k.getLsbD 15 = false ∧ k.getLsbD 16 = true ∧ k.getLsbD 17 = true ∧ k.getLsbD 18 = false := by
  rw [rowFits_iff]
  simp only [Fin.forall_fin_succ, rowMask, rowMatch]
  simp

theorem fits_mtimecmpRdHi (k : Key) : rowFits k .mtimecmpRdHi = true ↔
    k.getLsbD 0 = false ∧ k.getLsbD 1 = false ∧ k.getLsbD 2 = false ∧ k.getLsbD 14 = false ∧
    k.getLsbD 15 = true ∧ k.getLsbD 16 = true ∧ k.getLsbD 17 = true ∧ k.getLsbD 18 = false := by
  rw [rowFits_iff]
  simp only [Fin.forall_fin_succ, rowMask, rowMatch]
  simp

theorem fits_mtimecmpWrLo (k : Key) : rowFits k .mtimecmpWrLo = true ↔
    k.getLsbD 0 = false ∧ k.getLsbD 1 = false ∧ k.getLsbD 2 = false ∧ k.getLsbD 14 = true ∧
    k.getLsbD 15 = false ∧ k.getLsbD 16 = true ∧ k.getLsbD 17 = true ∧ k.getLsbD 18 = true := by
  rw [rowFits_iff]
  simp only [Fin.forall_fin_succ, rowMask, rowMatch]
  simp

theorem fits_mtimecmpWrHi (k : Key) : rowFits k .mtimecmpWrHi = true ↔
    k.getLsbD 0 = false ∧ k.getLsbD 1 = false ∧ k.getLsbD 2 = false ∧ k.getLsbD 14 = false ∧
    k.getLsbD 15 = true ∧ k.getLsbD 16 = true ∧ k.getLsbD 17 = true ∧ k.getLsbD 18 = true := by
  rw [rowFits_iff]
  simp only [Fin.forall_fin_succ, rowMask, rowMatch]
  simp

/-- The last row fits every key. -/
theorem fits_badAccess (k : Key) : rowFits k .badAccess = true := by
  rw [rowFits_iff]
  intro i h
  simp [rowMask] at h

/-- The first match in a list of rows, one row at a time. -/
theorem firstFit_cons (p : Row → Bool) (a d : Row) (l : List Row) :
    ((a :: l).find? p).getD d = if p a then a else (l.find? p).getD d := by
  cases h : p a <;> simp [h]

/-- The row that decides a key, row by row. -/
theorem selectRow_eq (k : Key) : selectRow k =
    if rowFits k .padAccess then .padAccess
    else if rowFits k .outside then .outside
    else if rowFits k .rsvAccess then .rsvAccess
    else if rowFits k .mtimeRd then .mtimeRd
    else if rowFits k .mtimeWr then .mtimeWr
    else if rowFits k .msipRd then .msipRd
    else if rowFits k .msipWr then .msipWr
    else if rowFits k .mtimecmpRdLo then .mtimecmpRdLo
    else if rowFits k .mtimecmpRdHi then .mtimecmpRdHi
    else if rowFits k .mtimecmpWrLo then .mtimecmpWrLo
    else if rowFits k .mtimecmpWrHi then .mtimecmpWrHi
    else .badAccess := by
  simp only [selectRow, rowOrder, firstFit_cons, fits_badAccess, if_true]

/-- The row of a built instruction is the row it was built for. -/
@[simp] theorem rowOf_buildInstr (r : BusReq) (q : Row) : rowOf (buildInstr r q) = q := by cases q <;> rfl

/-- The row of a decoded transaction is the row that decides its key. -/
@[simp] theorem rowOf_decode (r : BusReq) : rowOf (decode r) = selectRow r.key := rowOf_buildInstr r _

/-- The bits of an encoded key. -/
theorem mkKey_getLsbD (w : Dir) (sz : Size) (off : Offset) (i : Nat) : (mkKey w sz off).getLsbD i =
    if i < 16 then off.getLsbD i else if i < 18 then (sizeCode sz).getLsbD (i - 16) else
      (dirBit w).getLsbD (i - 18) := by
  simp only [mkKey, BitVec.getLsbD_append]
  grind

@[simp] theorem keyDir_mkKey (w : Dir) (sz : Size) (off : Offset) : keyDir (mkKey w sz off) = w := by
  rw [keyDir, mkKey_getLsbD]
  cases w <;> rfl

@[simp] theorem keySize_mkKey (w : Dir) (sz : Size) (off : Offset) : keySize (mkKey w sz off) = sz := by
  rw [keySize, mkKey_getLsbD, mkKey_getLsbD]
  cases sz <;> rfl

/-- The offset bits of an encoded key, cut out of it. -/
theorem extract_mkKey (w : Dir) (sz : Size) (off : Offset) (i n : Nat) (h : i + n ≤ 16) :
    (mkKey w sz off).extractLsb' i n = off.extractLsb' i n := by
  refine BitVec.eq_of_getLsbD_eq fun j hj => ?_
  simp only [BitVec.getLsbD_extractLsb', mkKey_getLsbD, if_pos (show i + j < 16 by omega)]

@[simp] theorem keyOff_mkKey (w : Dir) (sz : Size) (off : Offset) : keyOff (mkKey w sz off) = off := by
  rw [keyOff, extract_mkKey _ _ _ _ _ (by decide)]
  exact BitVec.eq_of_getLsbD_eq fun j hj => by simp [hj]

end Sys2Proof
end

