-- ==== Sys2Proof/Laws/Encode.lean ====
section
/-! SUPPORT. The bits of the offsets, and what the transactions of the host operations decode to. -/

namespace Sys2Proof

/-! ### The bits of the offsets (R83, R84, R85) -/

theorem msipOffset_getLsbD (idx : BitVec 12) (i : Nat) : (msipOffset idx).getLsbD i =
    if i < 2 then false else if i < 14 then idx.getLsbD (i - 2) else false := by
  simp only [msipOffset, BitVec.getLsbD_append]
  grind

theorem timerLoOffset_getLsbD (t : BitVec 11) (i : Nat) : (timerLoOffset t).getLsbD i =
    if i < 3 then false else if i < 14 then t.getLsbD (i - 3) else decide (i = 14) := by
  by_cases h : i < 16
  · simp only [timerLoOffset, BitVec.getLsbD_append]
    interval_cases i <;> simp
  · rw [BitVec.getLsbD_of_ge _ _ (by omega)]
    grind

theorem timerHiOffset_getLsbD (t : BitVec 11) (i : Nat) : (timerHiOffset t).getLsbD i =
    if i < 3 then false else if i < 14 then t.getLsbD (i - 3) else decide (i = 15) := by
  by_cases h : i < 16
  · simp only [timerHiOffset, BitVec.getLsbD_append]
    interval_cases i <;> simp
  · rw [BitVec.getLsbD_of_ge _ _ (by omega)]
    grind

theorem outsideOffset_getLsbD (low : BitVec 12) (i : Nat) : (outsideOffset low).getLsbD i =
    if i < 12 then low.getLsbD i else decide (i < 16) := by
  by_cases h : i < 16
  · simp only [outsideOffset, BitVec.getLsbD_append]
    interval_cases i <;> simp
  · rw [BitVec.getLsbD_of_ge _ _ (by omega)]
    grind

theorem rsvOffset_getLsbD (low : BitVec 14) (i : Nat) : (rsvOffset low).getLsbD i =
    if i < 14 then low.getLsbD i else decide (i < 16) := by
  by_cases h : i < 16
  · simp only [rsvOffset, BitVec.getLsbD_append]
    interval_cases i <;> simp
  · rw [BitVec.getLsbD_of_ge _ _ (by omega)]
    grind

/-! ### The MSIP transactions -/

theorem keyIdx_msipOffset (w : Dir) (sz : Size) (idx : BitVec 12) :
    keyIdx (mkKey w sz (msipOffset idx)) = idx := by
  rw [keyIdx, extract_mkKey _ _ _ _ _ (by decide)]
  refine BitVec.eq_of_getLsbD_eq fun j hj => ?_
  rw [BitVec.getLsbD_extractLsb', msipOffset_getLsbD, if_neg (by omega), if_pos (by omega)]
  simp [hj]

theorem decode_msipRd {idx : BitVec 12} (h : idx ≠ 0xFFF#12) (d : Dword) :
    decode ⟨mkKey .read .b4 (msipOffset idx), d⟩ = .msipRd idx := by
  have hr : selectRow (mkKey .read .b4 (msipOffset idx)) = .msipRd := by
    rw [selectRow_eq]
    simp only [fits_padAccess, fits_outside, fits_rsvAccess, fits_mtimeRd, fits_mtimeWr, fits_msipRd,
      mkKey_getLsbD, msipOffset_getLsbD]
    simp [sizeCode, dirBit]
    intros
    by_contra hc
    exact h (BitVec.eq_of_getLsbD_eq fun i hi => by interval_cases i <;> simp_all)
  rw [decode, hr, buildInstr, keyIdx_msipOffset]

theorem decode_msipWr {idx : BitVec 12} (h : idx ≠ 0xFFF#12) (d : Dword) :
    decode ⟨mkKey .write .b4 (msipOffset idx), d⟩ = .msipWr idx (d.extractLsb' 0 32) := by
  have hr : selectRow (mkKey .write .b4 (msipOffset idx)) = .msipWr := by
    rw [selectRow_eq]
    simp only [fits_padAccess, fits_outside, fits_rsvAccess, fits_mtimeRd, fits_mtimeWr, fits_msipRd, fits_msipWr,
      mkKey_getLsbD, msipOffset_getLsbD]
    simp [sizeCode, dirBit]
    intros
    by_contra hc
    exact h (BitVec.eq_of_getLsbD_eq fun i hi => by interval_cases i <;> simp_all)
  rw [decode, hr, buildInstr, keyIdx_msipOffset]

/-- The offset a host operation forms is that of the MSIP pattern (R51, R83). -/
theorem msipAt_eq {i : Nat} (h : i < 4096) : Machine.msipAt i = msipOffset (BitVec.ofNat 12 i) := by
  refine BitVec.eq_of_getLsbD_eq fun j hj => ?_
  rw [Machine.msipAt, BitVec.getLsbD_ofNat, msipOffset_getLsbD, BitVec.getLsbD_ofNat,
    show 4 * i = 2 ^ 2 * i from rfl, Nat.testBit_two_pow_mul]
  by_cases h2 : j < 2
  · simp [h2, Nat.not_le.2 h2]
  · by_cases h14 : j < 14
    · simp [h2, h14, hj, Nat.not_lt.1 h2]; omega
    · have : i.testBit (j - 2) = false := Nat.testBit_lt_two_pow (Nat.lt_of_lt_of_le h (by
        have : 2 ^ 12 ≤ 2 ^ (j - 2) := Nat.pow_le_pow_right (by decide) (by omega)
        simpa using this))
      simp [h2, h14, this]

theorem ofNat_ne_padding {i : Nat} (h : i < 4095) : BitVec.ofNat 12 i ≠ 0xFFF#12 := by
  intro e
  have := congrArg BitVec.toNat e
  simp at this; omega

/-- `RD32 4*i` is a read of MSIP register `i`. -/
theorem decode_rd32 {i : Nat} (h : i < 4095) :
    decode (rd32 (Machine.msipAt i)) = .msipRd (BitVec.ofNat 12 i) := by
  rw [rd32, msipAt_eq (by omega), decode_msipRd (ofNat_ne_padding h)]

/-- `WR32 4*i, v` is a write of MSIP register `i`. -/
theorem decode_wr32 {i : Nat} (h : i < 4095) (v : Word) :
    decode (wr32 (Machine.msipAt i) v) = .msipWr (BitVec.ofNat 12 i) v := by
  rw [wr32, msipAt_eq (by omega), decode_msipWr (ofNat_ne_padding h)]
  congr 1
  exact BitVec.eq_of_getLsbD_eq fun j hj => by simp [hj]; omega

end Sys2Proof
end

