-- ==== Sys2Proof/Laws/State.lean ====
section
/-! SUPPORT. What each update of State does to each field: one lemma per field per update. -/

namespace Sys2Proof.Machine

/-- A register file after a write, read at any core. -/
@[simp] theorem set_getElem_core {α : Type} (v : Vector α Config.numCores) (c d : CoreId) (x : α) :
    (v.set c.val x c.isLt)[d.val] = if c = d then x else v[d.val] := by
  simp only [Vector.getElem_set, Fin.ext_iff]

/-- A register file is what its cores' registers are. -/
theorem perCore_ext {α : Type} {v w : Vector α Config.numCores} (h : ∀ c : CoreId, v[c] = w[c]) : v = w :=
  Vector.ext fun i hi => h ⟨i, hi⟩

@[simp] theorem perCore_getElem {α : Type} (f : Nat → α) (c : CoreId) : (State.perCore f)[c.val] = f c.val := by
  simp [State.perCore]

@[simp] theorem setMsip_msip (c : CoreId) (b : Bool) (s : State) :
    (setMsip c b s).msip = s.msip.set c.val b c.isLt := rfl

@[simp] theorem setMsip_mtimecmp (c : CoreId) (b : Bool) (s : State) :
    (setMsip c b s).mtimecmp = s.mtimecmp := rfl

@[simp] theorem setMsip_mtime (c : CoreId) (b : Bool) (s : State) :
    (setMsip c b s).mtime = s.mtime := rfl

@[simp] theorem setMsip_lsie (c : CoreId) (b : Bool) (s : State) :
    (setMsip c b s).lsie = s.lsie := rfl

@[simp] theorem setMsip_mapped (c : CoreId) (b : Bool) (s : State) :
    (setMsip c b s).mapped = s.mapped := rfl

@[simp] theorem setMsip_faults (c : CoreId) (b : Bool) (s : State) :
    (setMsip c b s).faults = s.faults := rfl

@[simp] theorem setMsip_position (c : CoreId) (b : Bool) (s : State) :
    (setMsip c b s).position = s.position := rfl

@[simp] theorem setMsip_core (c : CoreId) (b : Bool) (s : State) :
    (setMsip c b s).core = s.core := rfl

@[simp] theorem setMsip_platform (c : CoreId) (b : Bool) (s : State) :
    (setMsip c b s).platform = s.platform := rfl

@[simp] theorem setMsip_program (c : CoreId) (b : Bool) (s : State) :
    (setMsip c b s).program = s.program := rfl

@[simp] theorem setMsip_reply (c : CoreId) (b : Bool) (s : State) :
    (setMsip c b s).reply = s.reply := rfl

@[simp] theorem setMsip_self (c : CoreId) (b : Bool) (s : State) :
    (setMsip c b s).self = s.self := rfl

@[simp] theorem setMsip_schedule (c : CoreId) (b : Bool) (s : State) :
    (setMsip c b s).schedule = s.schedule := rfl

@[simp] theorem setMsip_draws (c : CoreId) (b : Bool) (s : State) :
    (setMsip c b s).draws = s.draws := rfl

@[simp] theorem setMsip_history (c : CoreId) (b : Bool) (s : State) :
    (setMsip c b s).history = s.history := rfl

@[simp] theorem stopped_setMsip (d : CoreId) (c : CoreId) (b : Bool) (s : State) :
    stopped d (setMsip c b s) = stopped d s := rfl

@[simp] theorem setMtimecmp_msip (c : CoreId) (v : Dword) (s : State) :
    (setMtimecmp c v s).msip = s.msip := rfl

@[simp] theorem setMtimecmp_mtimecmp (c : CoreId) (v : Dword) (s : State) :
    (setMtimecmp c v s).mtimecmp = s.mtimecmp.set c.val v c.isLt := rfl

@[simp] theorem setMtimecmp_mtime (c : CoreId) (v : Dword) (s : State) :
    (setMtimecmp c v s).mtime = s.mtime := rfl

@[simp] theorem setMtimecmp_lsie (c : CoreId) (v : Dword) (s : State) :
    (setMtimecmp c v s).lsie = s.lsie := rfl

@[simp] theorem setMtimecmp_mapped (c : CoreId) (v : Dword) (s : State) :
    (setMtimecmp c v s).mapped = s.mapped := rfl

@[simp] theorem setMtimecmp_faults (c : CoreId) (v : Dword) (s : State) :
    (setMtimecmp c v s).faults = s.faults := rfl

@[simp] theorem setMtimecmp_position (c : CoreId) (v : Dword) (s : State) :
    (setMtimecmp c v s).position = s.position := rfl

@[simp] theorem setMtimecmp_core (c : CoreId) (v : Dword) (s : State) :
    (setMtimecmp c v s).core = s.core := rfl

@[simp] theorem setMtimecmp_platform (c : CoreId) (v : Dword) (s : State) :
    (setMtimecmp c v s).platform = s.platform := rfl

@[simp] theorem setMtimecmp_program (c : CoreId) (v : Dword) (s : State) :
    (setMtimecmp c v s).program = s.program := rfl

@[simp] theorem setMtimecmp_reply (c : CoreId) (v : Dword) (s : State) :
    (setMtimecmp c v s).reply = s.reply := rfl

@[simp] theorem setMtimecmp_self (c : CoreId) (v : Dword) (s : State) :
    (setMtimecmp c v s).self = s.self := rfl

@[simp] theorem setMtimecmp_schedule (c : CoreId) (v : Dword) (s : State) :
    (setMtimecmp c v s).schedule = s.schedule := rfl

@[simp] theorem setMtimecmp_draws (c : CoreId) (v : Dword) (s : State) :
    (setMtimecmp c v s).draws = s.draws := rfl

@[simp] theorem setMtimecmp_history (c : CoreId) (v : Dword) (s : State) :
    (setMtimecmp c v s).history = s.history := rfl

@[simp] theorem stopped_setMtimecmp (d : CoreId) (c : CoreId) (v : Dword) (s : State) :
    stopped d (setMtimecmp c v s) = stopped d s := rfl

@[simp] theorem msipWord_setMtimecmp (d : CoreId) (c : CoreId) (v : Dword) (s : State) :
    msipWord d (setMtimecmp c v s) = msipWord d s := rfl

@[simp] theorem setMtime_msip (v : Dword) (s : State) :
    (setMtime v s).msip = s.msip := rfl

@[simp] theorem setMtime_mtimecmp (v : Dword) (s : State) :
    (setMtime v s).mtimecmp = s.mtimecmp := rfl

@[simp] theorem setMtime_mtime (v : Dword) (s : State) :
    (setMtime v s).mtime = v := rfl

@[simp] theorem setMtime_lsie (v : Dword) (s : State) :
    (setMtime v s).lsie = s.lsie := rfl

@[simp] theorem setMtime_mapped (v : Dword) (s : State) :
    (setMtime v s).mapped = s.mapped := rfl

@[simp] theorem setMtime_faults (v : Dword) (s : State) :
    (setMtime v s).faults = s.faults := rfl

@[simp] theorem setMtime_position (v : Dword) (s : State) :
    (setMtime v s).position = s.position := rfl

@[simp] theorem setMtime_core (v : Dword) (s : State) :
    (setMtime v s).core = s.core := rfl

@[simp] theorem setMtime_platform (v : Dword) (s : State) :
    (setMtime v s).platform = s.platform := rfl

@[simp] theorem setMtime_program (v : Dword) (s : State) :
    (setMtime v s).program = s.program := rfl

@[simp] theorem setMtime_reply (v : Dword) (s : State) :
    (setMtime v s).reply = s.reply := rfl

@[simp] theorem setMtime_self (v : Dword) (s : State) :
    (setMtime v s).self = s.self := rfl

@[simp] theorem setMtime_schedule (v : Dword) (s : State) :
    (setMtime v s).schedule = s.schedule := rfl

@[simp] theorem setMtime_draws (v : Dword) (s : State) :
    (setMtime v s).draws = s.draws := rfl

@[simp] theorem setMtime_history (v : Dword) (s : State) :
    (setMtime v s).history = s.history := rfl

@[simp] theorem stopped_setMtime (d : CoreId) (v : Dword) (s : State) :
    stopped d (setMtime v s) = stopped d s := rfl

@[simp] theorem msipWord_setMtime (d : CoreId) (v : Dword) (s : State) :
    msipWord d (setMtime v s) = msipWord d s := rfl

@[simp] theorem setLsie_msip (c : CoreId) (b : Bool) (s : State) :
    (setLsie c b s).msip = s.msip := rfl

@[simp] theorem setLsie_mtimecmp (c : CoreId) (b : Bool) (s : State) :
    (setLsie c b s).mtimecmp = s.mtimecmp := rfl

@[simp] theorem setLsie_mtime (c : CoreId) (b : Bool) (s : State) :
    (setLsie c b s).mtime = s.mtime := rfl

@[simp] theorem setLsie_lsie (c : CoreId) (b : Bool) (s : State) :
    (setLsie c b s).lsie = s.lsie.set c.val b c.isLt := rfl

@[simp] theorem setLsie_mapped (c : CoreId) (b : Bool) (s : State) :
    (setLsie c b s).mapped = s.mapped := rfl

@[simp] theorem setLsie_faults (c : CoreId) (b : Bool) (s : State) :
    (setLsie c b s).faults = s.faults := rfl

@[simp] theorem setLsie_position (c : CoreId) (b : Bool) (s : State) :
    (setLsie c b s).position = s.position := rfl

@[simp] theorem setLsie_core (c : CoreId) (b : Bool) (s : State) :
    (setLsie c b s).core = s.core := rfl

@[simp] theorem setLsie_platform (c : CoreId) (b : Bool) (s : State) :
    (setLsie c b s).platform = s.platform := rfl

@[simp] theorem setLsie_program (c : CoreId) (b : Bool) (s : State) :
    (setLsie c b s).program = s.program := rfl

@[simp] theorem setLsie_reply (c : CoreId) (b : Bool) (s : State) :
    (setLsie c b s).reply = s.reply := rfl

@[simp] theorem setLsie_self (c : CoreId) (b : Bool) (s : State) :
    (setLsie c b s).self = s.self := rfl

@[simp] theorem setLsie_schedule (c : CoreId) (b : Bool) (s : State) :
    (setLsie c b s).schedule = s.schedule := rfl

@[simp] theorem setLsie_draws (c : CoreId) (b : Bool) (s : State) :
    (setLsie c b s).draws = s.draws := rfl

@[simp] theorem setLsie_history (c : CoreId) (b : Bool) (s : State) :
    (setLsie c b s).history = s.history := rfl

@[simp] theorem stopped_setLsie (d : CoreId) (c : CoreId) (b : Bool) (s : State) :
    stopped d (setLsie c b s) = stopped d s := rfl

@[simp] theorem msipWord_setLsie (d : CoreId) (c : CoreId) (b : Bool) (s : State) :
    msipWord d (setLsie c b s) = msipWord d s := rfl

@[simp] theorem setMapped_msip (b : Bool) (s : State) :
    (setMapped b s).msip = s.msip := rfl

@[simp] theorem setMapped_mtimecmp (b : Bool) (s : State) :
    (setMapped b s).mtimecmp = s.mtimecmp := rfl

@[simp] theorem setMapped_mtime (b : Bool) (s : State) :
    (setMapped b s).mtime = s.mtime := rfl

@[simp] theorem setMapped_lsie (b : Bool) (s : State) :
    (setMapped b s).lsie = s.lsie := rfl

@[simp] theorem setMapped_mapped (b : Bool) (s : State) :
    (setMapped b s).mapped = b := rfl

@[simp] theorem setMapped_faults (b : Bool) (s : State) :
    (setMapped b s).faults = s.faults := rfl

@[simp] theorem setMapped_position (b : Bool) (s : State) :
    (setMapped b s).position = s.position := rfl

@[simp] theorem setMapped_core (b : Bool) (s : State) :
    (setMapped b s).core = s.core := rfl

@[simp] theorem setMapped_platform (b : Bool) (s : State) :
    (setMapped b s).platform = s.platform := rfl

@[simp] theorem setMapped_program (b : Bool) (s : State) :
    (setMapped b s).program = s.program := rfl

@[simp] theorem setMapped_reply (b : Bool) (s : State) :
    (setMapped b s).reply = s.reply := rfl

@[simp] theorem setMapped_self (b : Bool) (s : State) :
    (setMapped b s).self = s.self := rfl

@[simp] theorem setMapped_schedule (b : Bool) (s : State) :
    (setMapped b s).schedule = s.schedule := rfl

@[simp] theorem setMapped_draws (b : Bool) (s : State) :
    (setMapped b s).draws = s.draws := rfl

@[simp] theorem setMapped_history (b : Bool) (s : State) :
    (setMapped b s).history = s.history := rfl

@[simp] theorem stopped_setMapped (d : CoreId) (b : Bool) (s : State) :
    stopped d (setMapped b s) = stopped d s := rfl

@[simp] theorem msipWord_setMapped (d : CoreId) (b : Bool) (s : State) :
    msipWord d (setMapped b s) = msipWord d s := rfl

@[simp] theorem setFaults_msip (l : List FaultRecord) (s : State) :
    (setFaults l s).msip = s.msip := rfl

@[simp] theorem setFaults_mtimecmp (l : List FaultRecord) (s : State) :
    (setFaults l s).mtimecmp = s.mtimecmp := rfl

@[simp] theorem setFaults_mtime (l : List FaultRecord) (s : State) :
    (setFaults l s).mtime = s.mtime := rfl

@[simp] theorem setFaults_lsie (l : List FaultRecord) (s : State) :
    (setFaults l s).lsie = s.lsie := rfl

@[simp] theorem setFaults_mapped (l : List FaultRecord) (s : State) :
    (setFaults l s).mapped = s.mapped := rfl

@[simp] theorem setFaults_faults (l : List FaultRecord) (s : State) :
    (setFaults l s).faults = l := rfl

@[simp] theorem setFaults_position (l : List FaultRecord) (s : State) :
    (setFaults l s).position = s.position := rfl

@[simp] theorem setFaults_core (l : List FaultRecord) (s : State) :
    (setFaults l s).core = s.core := rfl

@[simp] theorem setFaults_platform (l : List FaultRecord) (s : State) :
    (setFaults l s).platform = s.platform := rfl

@[simp] theorem setFaults_program (l : List FaultRecord) (s : State) :
    (setFaults l s).program = s.program := rfl

@[simp] theorem setFaults_reply (l : List FaultRecord) (s : State) :
    (setFaults l s).reply = s.reply := rfl

@[simp] theorem setFaults_self (l : List FaultRecord) (s : State) :
    (setFaults l s).self = s.self := rfl

@[simp] theorem setFaults_schedule (l : List FaultRecord) (s : State) :
    (setFaults l s).schedule = s.schedule := rfl

@[simp] theorem setFaults_draws (l : List FaultRecord) (s : State) :
    (setFaults l s).draws = s.draws := rfl

@[simp] theorem setFaults_history (l : List FaultRecord) (s : State) :
    (setFaults l s).history = s.history := rfl

@[simp] theorem msipWord_setFaults (d : CoreId) (l : List FaultRecord) (s : State) :
    msipWord d (setFaults l s) = msipWord d s := rfl

@[simp] theorem setPosition_msip (c : CoreId) (p : Position) (s : State) :
    (setPosition c p s).msip = s.msip := rfl

@[simp] theorem setPosition_mtimecmp (c : CoreId) (p : Position) (s : State) :
    (setPosition c p s).mtimecmp = s.mtimecmp := rfl

@[simp] theorem setPosition_mtime (c : CoreId) (p : Position) (s : State) :
    (setPosition c p s).mtime = s.mtime := rfl

@[simp] theorem setPosition_lsie (c : CoreId) (p : Position) (s : State) :
    (setPosition c p s).lsie = s.lsie := rfl

@[simp] theorem setPosition_mapped (c : CoreId) (p : Position) (s : State) :
    (setPosition c p s).mapped = s.mapped := rfl

@[simp] theorem setPosition_faults (c : CoreId) (p : Position) (s : State) :
    (setPosition c p s).faults = s.faults := rfl

@[simp] theorem setPosition_position (c : CoreId) (p : Position) (s : State) :
    (setPosition c p s).position = s.position.set c.val p c.isLt := rfl

@[simp] theorem setPosition_core (c : CoreId) (p : Position) (s : State) :
    (setPosition c p s).core = s.core := rfl

@[simp] theorem setPosition_platform (c : CoreId) (p : Position) (s : State) :
    (setPosition c p s).platform = s.platform := rfl

@[simp] theorem setPosition_program (c : CoreId) (p : Position) (s : State) :
    (setPosition c p s).program = s.program := rfl

@[simp] theorem setPosition_reply (c : CoreId) (p : Position) (s : State) :
    (setPosition c p s).reply = s.reply := rfl

@[simp] theorem setPosition_self (c : CoreId) (p : Position) (s : State) :
    (setPosition c p s).self = s.self := rfl

@[simp] theorem setPosition_schedule (c : CoreId) (p : Position) (s : State) :
    (setPosition c p s).schedule = s.schedule := rfl

@[simp] theorem setPosition_draws (c : CoreId) (p : Position) (s : State) :
    (setPosition c p s).draws = s.draws := rfl

@[simp] theorem setPosition_history (c : CoreId) (p : Position) (s : State) :
    (setPosition c p s).history = s.history := rfl

@[simp] theorem stopped_setPosition (d : CoreId) (c : CoreId) (p : Position) (s : State) :
    stopped d (setPosition c p s) = stopped d s := rfl

@[simp] theorem msipWord_setPosition (d : CoreId) (c : CoreId) (p : Position) (s : State) :
    msipWord d (setPosition c p s) = msipWord d s := rfl

@[simp] theorem setCore_msip (c : CoreId) (m : CoreModel) (s : State) :
    (setCore c m s).msip = s.msip := rfl

@[simp] theorem setCore_mtimecmp (c : CoreId) (m : CoreModel) (s : State) :
    (setCore c m s).mtimecmp = s.mtimecmp := rfl

@[simp] theorem setCore_mtime (c : CoreId) (m : CoreModel) (s : State) :
    (setCore c m s).mtime = s.mtime := rfl

@[simp] theorem setCore_lsie (c : CoreId) (m : CoreModel) (s : State) :
    (setCore c m s).lsie = s.lsie := rfl

@[simp] theorem setCore_mapped (c : CoreId) (m : CoreModel) (s : State) :
    (setCore c m s).mapped = s.mapped := rfl

@[simp] theorem setCore_faults (c : CoreId) (m : CoreModel) (s : State) :
    (setCore c m s).faults = s.faults := rfl

@[simp] theorem setCore_position (c : CoreId) (m : CoreModel) (s : State) :
    (setCore c m s).position = s.position := rfl

@[simp] theorem setCore_core (c : CoreId) (m : CoreModel) (s : State) :
    (setCore c m s).core = s.core.set c.val m c.isLt := rfl

@[simp] theorem setCore_platform (c : CoreId) (m : CoreModel) (s : State) :
    (setCore c m s).platform = s.platform := rfl

@[simp] theorem setCore_program (c : CoreId) (m : CoreModel) (s : State) :
    (setCore c m s).program = s.program := rfl

@[simp] theorem setCore_reply (c : CoreId) (m : CoreModel) (s : State) :
    (setCore c m s).reply = s.reply := rfl

@[simp] theorem setCore_self (c : CoreId) (m : CoreModel) (s : State) :
    (setCore c m s).self = s.self := rfl

@[simp] theorem setCore_schedule (c : CoreId) (m : CoreModel) (s : State) :
    (setCore c m s).schedule = s.schedule := rfl

@[simp] theorem setCore_draws (c : CoreId) (m : CoreModel) (s : State) :
    (setCore c m s).draws = s.draws := rfl

@[simp] theorem setCore_history (c : CoreId) (m : CoreModel) (s : State) :
    (setCore c m s).history = s.history := rfl

@[simp] theorem stopped_setCore (d : CoreId) (c : CoreId) (m : CoreModel) (s : State) :
    stopped d (setCore c m s) = stopped d s := rfl

@[simp] theorem msipWord_setCore (d : CoreId) (c : CoreId) (m : CoreModel) (s : State) :
    msipWord d (setCore c m s) = msipWord d s := rfl

@[simp] theorem setProgram_msip (c : CoreId) (l : List Request) (s : State) :
    (setProgram c l s).msip = s.msip := rfl

@[simp] theorem setProgram_mtimecmp (c : CoreId) (l : List Request) (s : State) :
    (setProgram c l s).mtimecmp = s.mtimecmp := rfl

@[simp] theorem setProgram_mtime (c : CoreId) (l : List Request) (s : State) :
    (setProgram c l s).mtime = s.mtime := rfl

@[simp] theorem setProgram_lsie (c : CoreId) (l : List Request) (s : State) :
    (setProgram c l s).lsie = s.lsie := rfl

@[simp] theorem setProgram_mapped (c : CoreId) (l : List Request) (s : State) :
    (setProgram c l s).mapped = s.mapped := rfl

@[simp] theorem setProgram_faults (c : CoreId) (l : List Request) (s : State) :
    (setProgram c l s).faults = s.faults := rfl

@[simp] theorem setProgram_position (c : CoreId) (l : List Request) (s : State) :
    (setProgram c l s).position = s.position := rfl

@[simp] theorem setProgram_core (c : CoreId) (l : List Request) (s : State) :
    (setProgram c l s).core = s.core := rfl

@[simp] theorem setProgram_platform (c : CoreId) (l : List Request) (s : State) :
    (setProgram c l s).platform = s.platform := rfl

@[simp] theorem setProgram_program (c : CoreId) (l : List Request) (s : State) :
    (setProgram c l s).program = s.program.set c.val l c.isLt := rfl

@[simp] theorem setProgram_reply (c : CoreId) (l : List Request) (s : State) :
    (setProgram c l s).reply = s.reply := rfl

@[simp] theorem setProgram_self (c : CoreId) (l : List Request) (s : State) :
    (setProgram c l s).self = s.self := rfl

@[simp] theorem setProgram_schedule (c : CoreId) (l : List Request) (s : State) :
    (setProgram c l s).schedule = s.schedule := rfl

@[simp] theorem setProgram_draws (c : CoreId) (l : List Request) (s : State) :
    (setProgram c l s).draws = s.draws := rfl

@[simp] theorem setProgram_history (c : CoreId) (l : List Request) (s : State) :
    (setProgram c l s).history = s.history := rfl

@[simp] theorem stopped_setProgram (d : CoreId) (c : CoreId) (l : List Request) (s : State) :
    stopped d (setProgram c l s) = stopped d s := rfl

@[simp] theorem msipWord_setProgram (d : CoreId) (c : CoreId) (l : List Request) (s : State) :
    msipWord d (setProgram c l s) = msipWord d s := rfl

@[simp] theorem setReply_msip (c : CoreId) (r : Reply) (s : State) :
    (setReply c r s).msip = s.msip := rfl

@[simp] theorem setReply_mtimecmp (c : CoreId) (r : Reply) (s : State) :
    (setReply c r s).mtimecmp = s.mtimecmp := rfl

@[simp] theorem setReply_mtime (c : CoreId) (r : Reply) (s : State) :
    (setReply c r s).mtime = s.mtime := rfl

@[simp] theorem setReply_lsie (c : CoreId) (r : Reply) (s : State) :
    (setReply c r s).lsie = s.lsie := rfl

@[simp] theorem setReply_mapped (c : CoreId) (r : Reply) (s : State) :
    (setReply c r s).mapped = s.mapped := rfl

@[simp] theorem setReply_faults (c : CoreId) (r : Reply) (s : State) :
    (setReply c r s).faults = s.faults := rfl

@[simp] theorem setReply_position (c : CoreId) (r : Reply) (s : State) :
    (setReply c r s).position = s.position := rfl

@[simp] theorem setReply_core (c : CoreId) (r : Reply) (s : State) :
    (setReply c r s).core = s.core := rfl

@[simp] theorem setReply_platform (c : CoreId) (r : Reply) (s : State) :
    (setReply c r s).platform = s.platform := rfl

@[simp] theorem setReply_program (c : CoreId) (r : Reply) (s : State) :
    (setReply c r s).program = s.program := rfl

@[simp] theorem setReply_reply (c : CoreId) (r : Reply) (s : State) :
    (setReply c r s).reply = s.reply.set c.val r c.isLt := rfl

@[simp] theorem setReply_self (c : CoreId) (r : Reply) (s : State) :
    (setReply c r s).self = s.self := rfl

@[simp] theorem setReply_schedule (c : CoreId) (r : Reply) (s : State) :
    (setReply c r s).schedule = s.schedule := rfl

@[simp] theorem setReply_draws (c : CoreId) (r : Reply) (s : State) :
    (setReply c r s).draws = s.draws := rfl

@[simp] theorem setReply_history (c : CoreId) (r : Reply) (s : State) :
    (setReply c r s).history = s.history := rfl

@[simp] theorem stopped_setReply (d : CoreId) (c : CoreId) (r : Reply) (s : State) :
    stopped d (setReply c r s) = stopped d s := rfl

@[simp] theorem msipWord_setReply (d : CoreId) (c : CoreId) (r : Reply) (s : State) :
    msipWord d (setReply c r s) = msipWord d s := rfl

@[simp] theorem setSelf_msip (c : CoreId) (s : State) :
    (setSelf c s).msip = s.msip := rfl

@[simp] theorem setSelf_mtimecmp (c : CoreId) (s : State) :
    (setSelf c s).mtimecmp = s.mtimecmp := rfl

@[simp] theorem setSelf_mtime (c : CoreId) (s : State) :
    (setSelf c s).mtime = s.mtime := rfl

@[simp] theorem setSelf_lsie (c : CoreId) (s : State) :
    (setSelf c s).lsie = s.lsie := rfl

@[simp] theorem setSelf_mapped (c : CoreId) (s : State) :
    (setSelf c s).mapped = s.mapped := rfl

@[simp] theorem setSelf_faults (c : CoreId) (s : State) :
    (setSelf c s).faults = s.faults := rfl

@[simp] theorem setSelf_position (c : CoreId) (s : State) :
    (setSelf c s).position = s.position := rfl

@[simp] theorem setSelf_core (c : CoreId) (s : State) :
    (setSelf c s).core = s.core := rfl

@[simp] theorem setSelf_platform (c : CoreId) (s : State) :
    (setSelf c s).platform = s.platform := rfl

@[simp] theorem setSelf_program (c : CoreId) (s : State) :
    (setSelf c s).program = s.program := rfl

@[simp] theorem setSelf_reply (c : CoreId) (s : State) :
    (setSelf c s).reply = s.reply := rfl

@[simp] theorem setSelf_self (c : CoreId) (s : State) :
    (setSelf c s).self = c := rfl

@[simp] theorem setSelf_schedule (c : CoreId) (s : State) :
    (setSelf c s).schedule = s.schedule := rfl

@[simp] theorem setSelf_draws (c : CoreId) (s : State) :
    (setSelf c s).draws = s.draws := rfl

@[simp] theorem setSelf_history (c : CoreId) (s : State) :
    (setSelf c s).history = s.history := rfl

@[simp] theorem stopped_setSelf (d : CoreId) (c : CoreId) (s : State) :
    stopped d (setSelf c s) = stopped d s := rfl

@[simp] theorem msipWord_setSelf (d : CoreId) (c : CoreId) (s : State) :
    msipWord d (setSelf c s) = msipWord d s := rfl

@[simp] theorem setSchedule_msip (l : List Move) (s : State) :
    (setSchedule l s).msip = s.msip := rfl

@[simp] theorem setSchedule_mtimecmp (l : List Move) (s : State) :
    (setSchedule l s).mtimecmp = s.mtimecmp := rfl

@[simp] theorem setSchedule_mtime (l : List Move) (s : State) :
    (setSchedule l s).mtime = s.mtime := rfl

@[simp] theorem setSchedule_lsie (l : List Move) (s : State) :
    (setSchedule l s).lsie = s.lsie := rfl

@[simp] theorem setSchedule_mapped (l : List Move) (s : State) :
    (setSchedule l s).mapped = s.mapped := rfl

@[simp] theorem setSchedule_faults (l : List Move) (s : State) :
    (setSchedule l s).faults = s.faults := rfl

@[simp] theorem setSchedule_position (l : List Move) (s : State) :
    (setSchedule l s).position = s.position := rfl

@[simp] theorem setSchedule_core (l : List Move) (s : State) :
    (setSchedule l s).core = s.core := rfl

@[simp] theorem setSchedule_platform (l : List Move) (s : State) :
    (setSchedule l s).platform = s.platform := rfl

@[simp] theorem setSchedule_program (l : List Move) (s : State) :
    (setSchedule l s).program = s.program := rfl

@[simp] theorem setSchedule_reply (l : List Move) (s : State) :
    (setSchedule l s).reply = s.reply := rfl

@[simp] theorem setSchedule_self (l : List Move) (s : State) :
    (setSchedule l s).self = s.self := rfl

@[simp] theorem setSchedule_schedule (l : List Move) (s : State) :
    (setSchedule l s).schedule = l := rfl

@[simp] theorem setSchedule_draws (l : List Move) (s : State) :
    (setSchedule l s).draws = s.draws := rfl

@[simp] theorem setSchedule_history (l : List Move) (s : State) :
    (setSchedule l s).history = s.history := rfl

@[simp] theorem stopped_setSchedule (d : CoreId) (l : List Move) (s : State) :
    stopped d (setSchedule l s) = stopped d s := rfl

@[simp] theorem msipWord_setSchedule (d : CoreId) (l : List Move) (s : State) :
    msipWord d (setSchedule l s) = msipWord d s := rfl

@[simp] theorem addDraws_msip (n : Nat) (s : State) :
    (addDraws n s).msip = s.msip := rfl

@[simp] theorem addDraws_mtimecmp (n : Nat) (s : State) :
    (addDraws n s).mtimecmp = s.mtimecmp := rfl

@[simp] theorem addDraws_mtime (n : Nat) (s : State) :
    (addDraws n s).mtime = s.mtime := rfl

@[simp] theorem addDraws_lsie (n : Nat) (s : State) :
    (addDraws n s).lsie = s.lsie := rfl

@[simp] theorem addDraws_mapped (n : Nat) (s : State) :
    (addDraws n s).mapped = s.mapped := rfl

@[simp] theorem addDraws_faults (n : Nat) (s : State) :
    (addDraws n s).faults = s.faults := rfl

@[simp] theorem addDraws_position (n : Nat) (s : State) :
    (addDraws n s).position = s.position := rfl

@[simp] theorem addDraws_core (n : Nat) (s : State) :
    (addDraws n s).core = s.core := rfl

@[simp] theorem addDraws_platform (n : Nat) (s : State) :
    (addDraws n s).platform = s.platform := rfl

@[simp] theorem addDraws_program (n : Nat) (s : State) :
    (addDraws n s).program = s.program := rfl

@[simp] theorem addDraws_reply (n : Nat) (s : State) :
    (addDraws n s).reply = s.reply := rfl

@[simp] theorem addDraws_self (n : Nat) (s : State) :
    (addDraws n s).self = s.self := rfl

@[simp] theorem addDraws_schedule (n : Nat) (s : State) :
    (addDraws n s).schedule = s.schedule := rfl

@[simp] theorem addDraws_draws (n : Nat) (s : State) :
    (addDraws n s).draws = s.draws + n := rfl

@[simp] theorem addDraws_history (n : Nat) (s : State) :
    (addDraws n s).history = s.history := rfl

@[simp] theorem stopped_addDraws (d : CoreId) (n : Nat) (s : State) :
    stopped d (addDraws n s) = stopped d s := rfl

@[simp] theorem msipWord_addDraws (d : CoreId) (n : Nat) (s : State) :
    msipWord d (addDraws n s) = msipWord d s := rfl

@[simp] theorem logTransaction_msip (r : BusReq) (s : State) :
    (logTransaction r s).msip = s.msip := rfl

@[simp] theorem logTransaction_mtimecmp (r : BusReq) (s : State) :
    (logTransaction r s).mtimecmp = s.mtimecmp := rfl

@[simp] theorem logTransaction_mtime (r : BusReq) (s : State) :
    (logTransaction r s).mtime = s.mtime := rfl

@[simp] theorem logTransaction_lsie (r : BusReq) (s : State) :
    (logTransaction r s).lsie = s.lsie := rfl

@[simp] theorem logTransaction_mapped (r : BusReq) (s : State) :
    (logTransaction r s).mapped = s.mapped := rfl

@[simp] theorem logTransaction_faults (r : BusReq) (s : State) :
    (logTransaction r s).faults = s.faults := rfl

@[simp] theorem logTransaction_position (r : BusReq) (s : State) :
    (logTransaction r s).position = s.position := rfl

@[simp] theorem logTransaction_core (r : BusReq) (s : State) :
    (logTransaction r s).core = s.core := rfl

@[simp] theorem logTransaction_platform (r : BusReq) (s : State) :
    (logTransaction r s).platform = s.platform := rfl

@[simp] theorem logTransaction_program (r : BusReq) (s : State) :
    (logTransaction r s).program = s.program := rfl

@[simp] theorem logTransaction_reply (r : BusReq) (s : State) :
    (logTransaction r s).reply = s.reply := rfl

@[simp] theorem logTransaction_self (r : BusReq) (s : State) :
    (logTransaction r s).self = s.self := rfl

@[simp] theorem logTransaction_schedule (r : BusReq) (s : State) :
    (logTransaction r s).schedule = s.schedule := rfl

@[simp] theorem logTransaction_draws (r : BusReq) (s : State) :
    (logTransaction r s).draws = s.draws := rfl

@[simp] theorem logTransaction_history (r : BusReq) (s : State) :
    (logTransaction r s).history = (s.self, r) :: s.history := rfl

@[simp] theorem stopped_logTransaction (d : CoreId) (r : BusReq) (s : State) :
    stopped d (logTransaction r s) = stopped d s := rfl

@[simp] theorem msipWord_logTransaction (d : CoreId) (r : BusReq) (s : State) :
    msipWord d (logTransaction r s) = msipWord d s := rfl

@[simp] theorem raiseFault_msip (q : Reason) (off : Option Offset) (s : State) :
    (raiseFault q off s).msip = s.msip := rfl

@[simp] theorem raiseFault_mtimecmp (q : Reason) (off : Option Offset) (s : State) :
    (raiseFault q off s).mtimecmp = s.mtimecmp := rfl

@[simp] theorem raiseFault_mtime (q : Reason) (off : Option Offset) (s : State) :
    (raiseFault q off s).mtime = s.mtime := rfl

@[simp] theorem raiseFault_lsie (q : Reason) (off : Option Offset) (s : State) :
    (raiseFault q off s).lsie = s.lsie := rfl

@[simp] theorem raiseFault_mapped (q : Reason) (off : Option Offset) (s : State) :
    (raiseFault q off s).mapped = s.mapped := rfl

@[simp] theorem raiseFault_faults (q : Reason) (off : Option Offset) (s : State) :
    (raiseFault q off s).faults = insertRecord ⟨s.self, q, off⟩ s.faults := rfl

@[simp] theorem raiseFault_position (q : Reason) (off : Option Offset) (s : State) :
    (raiseFault q off s).position = s.position.set s.self.val .idle s.self.isLt := rfl

@[simp] theorem raiseFault_core (q : Reason) (off : Option Offset) (s : State) :
    (raiseFault q off s).core = s.core := rfl

@[simp] theorem raiseFault_platform (q : Reason) (off : Option Offset) (s : State) :
    (raiseFault q off s).platform = s.platform := rfl

@[simp] theorem raiseFault_program (q : Reason) (off : Option Offset) (s : State) :
    (raiseFault q off s).program = s.program := rfl

@[simp] theorem raiseFault_reply (q : Reason) (off : Option Offset) (s : State) :
    (raiseFault q off s).reply = s.reply.set s.self.val .none s.self.isLt := rfl

@[simp] theorem raiseFault_self (q : Reason) (off : Option Offset) (s : State) :
    (raiseFault q off s).self = s.self := rfl

@[simp] theorem raiseFault_schedule (q : Reason) (off : Option Offset) (s : State) :
    (raiseFault q off s).schedule = s.schedule := rfl

@[simp] theorem raiseFault_draws (q : Reason) (off : Option Offset) (s : State) :
    (raiseFault q off s).draws = s.draws := rfl

@[simp] theorem raiseFault_history (q : Reason) (off : Option Offset) (s : State) :
    (raiseFault q off s).history = s.history := rfl

@[simp] theorem finish_msip (r : Reply) (s : State) :
    (finish r s).msip = s.msip := rfl

@[simp] theorem finish_mtimecmp (r : Reply) (s : State) :
    (finish r s).mtimecmp = s.mtimecmp := rfl

@[simp] theorem finish_mtime (r : Reply) (s : State) :
    (finish r s).mtime = s.mtime := rfl

@[simp] theorem finish_lsie (r : Reply) (s : State) :
    (finish r s).lsie = s.lsie := rfl

@[simp] theorem finish_mapped (r : Reply) (s : State) :
    (finish r s).mapped = s.mapped := rfl

@[simp] theorem finish_faults (r : Reply) (s : State) :
    (finish r s).faults = s.faults := rfl

@[simp] theorem finish_position (r : Reply) (s : State) :
    (finish r s).position = s.position.set s.self.val .idle s.self.isLt := rfl

@[simp] theorem finish_core (r : Reply) (s : State) :
    (finish r s).core = s.core := rfl

@[simp] theorem finish_platform (r : Reply) (s : State) :
    (finish r s).platform = s.platform := rfl

@[simp] theorem finish_program (r : Reply) (s : State) :
    (finish r s).program = s.program := rfl

@[simp] theorem finish_reply (r : Reply) (s : State) :
    (finish r s).reply = s.reply.set s.self.val r s.self.isLt := rfl

@[simp] theorem finish_self (r : Reply) (s : State) :
    (finish r s).self = s.self := rfl

@[simp] theorem finish_schedule (r : Reply) (s : State) :
    (finish r s).schedule = s.schedule := rfl

@[simp] theorem finish_draws (r : Reply) (s : State) :
    (finish r s).draws = s.draws := rfl

@[simp] theorem finish_history (r : Reply) (s : State) :
    (finish r s).history = s.history := rfl

@[simp] theorem stopped_finish (d : CoreId) (r : Reply) (s : State) :
    stopped d (finish r s) = stopped d s := rfl

@[simp] theorem enterHandler_msip (q : Irq) (c : CoreId) (s : State) :
    (enterHandler q c s).msip = s.msip := rfl

@[simp] theorem enterHandler_mtimecmp (q : Irq) (c : CoreId) (s : State) :
    (enterHandler q c s).mtimecmp = s.mtimecmp := rfl

@[simp] theorem enterHandler_mtime (q : Irq) (c : CoreId) (s : State) :
    (enterHandler q c s).mtime = s.mtime := rfl

@[simp] theorem enterHandler_lsie (q : Irq) (c : CoreId) (s : State) :
    (enterHandler q c s).lsie = s.lsie := rfl

@[simp] theorem enterHandler_mapped (q : Irq) (c : CoreId) (s : State) :
    (enterHandler q c s).mapped = s.mapped := rfl

@[simp] theorem enterHandler_faults (q : Irq) (c : CoreId) (s : State) :
    (enterHandler q c s).faults = s.faults := rfl

@[simp] theorem enterHandler_position (q : Irq) (c : CoreId) (s : State) :
    (enterHandler q c s).position = s.position := rfl

@[simp] theorem enterHandler_core (q : Irq) (c : CoreId) (s : State) :
    (enterHandler q c s).core = s.core.set c.val
      { s.core[c] with
        mode := .machine, waiting := false, handler := some q, accepts := Config.freeBit s.draws } c.isLt := rfl

@[simp] theorem enterHandler_platform (q : Irq) (c : CoreId) (s : State) :
    (enterHandler q c s).platform = s.platform := rfl

@[simp] theorem enterHandler_program (q : Irq) (c : CoreId) (s : State) :
    (enterHandler q c s).program = s.program := rfl

@[simp] theorem enterHandler_reply (q : Irq) (c : CoreId) (s : State) :
    (enterHandler q c s).reply = s.reply := rfl

@[simp] theorem enterHandler_self (q : Irq) (c : CoreId) (s : State) :
    (enterHandler q c s).self = s.self := rfl

@[simp] theorem enterHandler_schedule (q : Irq) (c : CoreId) (s : State) :
    (enterHandler q c s).schedule = s.schedule := rfl

@[simp] theorem enterHandler_draws (q : Irq) (c : CoreId) (s : State) :
    (enterHandler q c s).draws = s.draws + 1 := rfl

@[simp] theorem enterHandler_history (q : Irq) (c : CoreId) (s : State) :
    (enterHandler q c s).history = s.history := rfl

@[simp] theorem stopped_enterHandler (d : CoreId) (q : Irq) (c : CoreId) (s : State) :
    stopped d (enterHandler q c s) = stopped d s := rfl

end Sys2Proof.Machine
end

