-- ==== Sys2Proof/Laws/Ops.lean ====
section
/-! SUPPORT. One specification lemma per shared operation: the set of fault records, the fault, the transactions and
the outcomes of the steps built from them. -/

namespace Sys2Proof.Machine

/-! ### The set of fault records (R30) -/

theorem reasonCode_lt (q : Reason) : reasonCode q < 16 := by cases q <;> decide

theorem reasonCode_inj {p q : Reason} (h : reasonCode p = reasonCode q) : p = q := by
  cases p <;> cases q <;> first | rfl | exact absurd h (by decide)

theorem offCode_lt (o : Option Offset) : offCode o < 131072 := by
  cases o with
  | none => decide
  | some o => have := o.isLt; simp only [offCode]; omega

theorem offCode_inj {o p : Option Offset} (h : offCode o = offCode p) : o = p := by
  cases o <;> cases p <;> simp_all [offCode, BitVec.toNat_inj]

/-- No two records share a rank. -/
theorem recordRank_inj {a b : FaultRecord} (h : recordRank a = recordRank b) : a = b := by
  obtain ⟨ca, qa, oa⟩ := a
  obtain ⟨cb, qb, ob⟩ := b
  simp only [recordRank] at h
  have := reasonCode_lt qa
  have := reasonCode_lt qb
  have := offCode_lt oa
  have := offCode_lt ob
  have hc : ca = cb := Fin.ext (by omega)
  have hq : qa = qb := reasonCode_inj (by omega)
  have ho : oa = ob := offCode_inj (by omega)
  rw [hc, hq, ho]

/-- Inserting a record adds it to the set and nothing else. -/
@[simp] theorem mem_insertRecord {r x : FaultRecord} {l : List FaultRecord} :
    x ∈ insertRecord r l ↔ x = r ∨ x ∈ l := by
  induction l with
  | nil => simp [insertRecord]
  | cons y ys ih =>
    simp only [insertRecord]
    split
    · simp
    · split
      next h =>
        obtain rfl := recordRank_inj h
        simp only [List.mem_cons, or_self_left]
      next => simp only [List.mem_cons, ih, or_left_comm]

/-- Inserting a record keeps the canonical form. -/
theorem insertRecord_sorted {r : FaultRecord} {l : List FaultRecord} (h : faultsSorted l) :
    faultsSorted (insertRecord r l) := by
  induction l with
  | nil => simp [insertRecord]
  | cons y ys ih =>
    have hy := List.pairwise_cons.1 h
    simp only [insertRecord]
    split
    next hlt =>
      refine List.pairwise_cons.2 ⟨fun x hx => ?_, h⟩
      rcases List.mem_cons.1 hx with rfl | hx
      · exact hlt
      · exact Nat.lt_trans hlt (hy.1 x hx)
    next hge =>
      split
      · exact h
      next hne =>
        refine List.pairwise_cons.2 ⟨fun x hx => ?_, ih hy.2⟩
        rcases mem_insertRecord.1 hx with rfl | hx
        · omega
        · exact hy.1 x hx

theorem stopped_iff {c : CoreId} {s : State} : stopped c s = true ↔ ∃ r ∈ s.faults, r.agent = c := by
  simp [stopped]

/-- A fault stops its agent and no other (R180). -/
@[simp] theorem stopped_raiseFault (c : CoreId) (q : Reason) (off : Option Offset) (s : State) :
    stopped c (raiseFault q off s) = (decide (s.self = c) || stopped c s) := by
  rw [Bool.eq_iff_iff]
  simp only [Bool.or_eq_true, decide_eq_true_eq, stopped_iff, raiseFault_faults, mem_insertRecord]
  constructor
  · rintro ⟨r, rfl | hr, rfl⟩
    · exact .inl rfl
    · exact .inr ⟨r, hr, rfl⟩
  · rintro (rfl | ⟨r, hr, rfl⟩)
    · exact ⟨_, .inl rfl, rfl⟩
    · exact ⟨r, .inr hr, rfl⟩

/-! ### Operands -/

theorem backed_eq_some {i : Nat} {c : CoreId} : backed i = some c ↔ i = c.val := by
  simp only [backed]
  split
  · simp [Fin.ext_iff]
  next h => simp only [reduceCtorEq, false_iff]; exact fun e => h (e ▸ c.isLt)

theorem backed_eq_none {i : Nat} : backed i = none ↔ Config.numCores ≤ i := by
  simp only [backed]
  split <;> simp_all

@[simp] theorem backed_val (c : CoreId) : backed c.val = some c := backed_eq_some.2 rfl

theorem windowOffset_eq_some {base addr : Nat} {off : Offset} :
    windowOffset base addr = some off ↔
      base ≤ addr ∧ addr < base + Config.windowSize ∧ off.toNat = addr - base := by
  simp only [windowOffset]
  split
  next h =>
    simp only [Option.some.injEq, ← BitVec.toNat_inj, BitVec.toNat_ofNat, h, true_and]
    have : (addr - base) % 2 ^ 16 = addr - base := Nat.mod_eq_of_lt (by simp only [Config.windowSize] at h; omega)
    rw [this]; exact eq_comm
  next h => simp only [reduceCtorEq, false_iff]; tauto

/-- The offset of an address in the window (R50). -/
theorem windowOffset_inside {base addr : Nat} (h : base ≤ addr ∧ addr < base + 0xF000) :
    windowOffset base addr = some (BitVec.ofNat 16 (addr - base)) := if_pos h

/-- An address outside the window has no offset (R50). -/
theorem windowOffset_outside {base addr : Nat} (h : ¬(base ≤ addr ∧ addr < base + 0xF000)) :
    windowOffset base addr = none := if_neg h

/-! ### Transactions -/

/-- Everything a transaction can answer from `s`: the answer to `self` alone, one register written and the answer,
or a fault. -/
def TransactionOutcome (s : State) (o : Host.Outcome State Fault Refusal) : Prop :=
  (∃ r, o = .next (setReply s.self r s)) ∨
  (∃ c b, o = .next (setReply s.self .done (setMsip c b s))) ∨
  (∃ c v, o = .next (setReply s.self .done (setMtimecmp c v s))) ∨
  (∃ q off, o = .next (raiseFault q (some off) s))

theorem readMtimecmp_cases (i : BitVec 12) (off : Offset) (s : State) :
    TransactionOutcome s (.next (readMtimecmp i off s)) := by
  rw [readMtimecmp]
  split
  · exact .inr (.inr (.inr ⟨_, _, rfl⟩))
  · exact .inl ⟨_, rfl⟩

theorem writeMtimecmp_cases (i : BitVec 12) (off : Offset) (v : Dword) (s : State) :
    TransactionOutcome s (.next (writeMtimecmp i off v s)) := by
  rw [writeMtimecmp]
  split
  · exact .inr (.inr (.inr ⟨_, _, rfl⟩))
  · exact .inr (.inr (.inl ⟨_, _, rfl⟩))

/-- Everything a decoded transaction can do. -/
theorem exec_cases (i : Instr) (s : State) : TransactionOutcome s (exec i s) := by
  cases i with
  | padAccess w sz => exact .inr (.inr (.inr ⟨_, _, rfl⟩))
  | outside w sz low => exact .inr (.inr (.inr ⟨_, _, rfl⟩))
  | rsvAccess w sz low => exact .inr (.inr (.inr ⟨_, _, rfl⟩))
  | badAccess w sz off => exact .inr (.inr (.inr ⟨_, _, rfl⟩))
  | mtimeRd => exact .inl ⟨_, rfl⟩
  | mtimeWr wdata => exact .inr (.inr (.inr ⟨_, _, rfl⟩))
  | msipRd idx =>
    simp only [exec, execMsipRd]
    split
    · exact .inr (.inr (.inr ⟨_, _, rfl⟩))
    · exact .inl ⟨_, rfl⟩
  | msipWr idx wdata =>
    simp only [exec, execMsipWr]
    split
    · exact .inr (.inr (.inr ⟨_, _, rfl⟩))
    · exact .inr (.inl ⟨_, _, rfl⟩)
  | mtimecmpRdLo t => exact readMtimecmp_cases _ _ s
  | mtimecmpRdHi t => exact readMtimecmp_cases _ _ s
  | mtimecmpWrLo t wdata => exact writeMtimecmp_cases _ _ _ s
  | mtimecmpWrHi t wdata => exact writeMtimecmp_cases _ _ _ s

/-- A decoded transaction always answers a next state. -/
theorem exec_next (i : Instr) (s : State) : ∃ t, exec i s = .next t := by
  rcases exec_cases i s with ⟨_, h⟩ | ⟨_, _, h⟩ | ⟨_, _, h⟩ | ⟨_, _, h⟩ <;> exact ⟨_, h⟩

theorem transact_machine {r : BusReq} {s : State} (h : s.core[s.self].mode = .machine) :
    transact r s = exec (decode r) (logTransaction r s) := by
  rw [transact, h]

theorem transact_other {r : BusReq} {s : State} (h : s.core[s.self].mode = .other) :
    transact r s = .refused (.notMachineMode s.self) := by
  rw [transact, h]

/-- A transaction that has a next state was issued in machine mode, and that state is the decoded row's. -/
theorem transact_eq_next {r : BusReq} {s t : State} :
    transact r s = .next t ↔
      s.core[s.self].mode = .machine ∧ exec (decode r) (logTransaction r s) = .next t := by
  cases h : s.core[s.self].mode with
  | machine => rw [transact_machine h]; simp
  | other => rw [transact_other h]; simp

theorem andThen_eq_next {o : Host.Outcome State Fault Refusal}
    {f : State → Host.Outcome State Fault Refusal} {t : State} :
    andThen o f = .next t ↔ ∃ u, o = .next u ∧ f u = .next t := by
  cases o <;> simp [andThen]

theorem afterAccess_eq_next {o : Host.Outcome State Fault Refusal} {f : State → State} {t : State} :
    afterAccess o f = .next t ↔
      ∃ u, o = .next u ∧ t = if stopped u.self u then u else f u := by
  rw [afterAccess, andThen_eq_next]
  simp only [Host.Outcome.next.injEq, eq_comm (a := t)]

theorem ifRunning_eq_next {c : CoreId} {s t : State} {o : Host.Outcome State Fault Refusal} :
    ifRunning c s o = .next t ↔ stopped c s = false ∧ o = .next t := by
  cases h : stopped c s <;> simp [ifRunning, h]

/-! ### The interleaving -/

theorem nextMove_cons {s : State} {m : Move} {rest : List Move} (h : s.schedule = m :: rest) :
    nextMove s = (m, setSchedule rest s) := by
  rw [nextMove, h]

theorem nextMove_nil {s : State} (h : s.schedule = []) :
    nextMove s = (Config.freeMove s.draws, addDraws 1 s) := by
  rw [nextMove, h]

/-- Choosing the next move changes the schedule or the draw counter, nothing else. -/
theorem nextMove_cases (s : State) :
    (∃ rest, (nextMove s).2 = setSchedule rest s) ∨ (nextMove s).2 = addDraws 1 s := by
  cases h : s.schedule with
  | nil => exact .inr (by rw [nextMove_nil h])
  | cons m rest => exact .inl ⟨rest, by rw [nextMove_cons h]⟩

end Sys2Proof.Machine
end

