-- ==== Sys2Proof/Laws/PerInstr.lean ====
section
/-! SUPPORT. Statements for all transactions, one lemma per constructor. Family EncodeFits: the key the encoder writes
fits the transaction's own row of the decode table (30_encoding.md R85). -/

namespace Sys2Proof.Laws.EncodeFits

/-- The encoded key has the match of its row under the row's mask. -/
def Statement (i : Instr) : Prop := rowFits (encode i).key (rowOf i) = true

/-- Row by row: the bits of the encoded key are those the row asks for. -/
theorem statement (i : Instr) : Statement i := by
  cases i <;>
    simp only [Statement, encode, rowOf, fits_padAccess, fits_outside, fits_rsvAccess, fits_mtimeRd, fits_mtimeWr,
      fits_msipRd, fits_msipWr, fits_mtimecmpRdLo, fits_mtimecmpRdHi, fits_mtimecmpWrLo, fits_mtimecmpWrHi,
      fits_badAccess, mkKey_getLsbD, outsideOffset_getLsbD, rsvOffset_getLsbD, msipOffset_getLsbD,
      timerLoOffset_getLsbD, timerHiOffset_getLsbD] <;>
    simp [sizeCode, dirBit]

theorem padAccess (w : Dir) (sz : Size) : Statement (.padAccess w sz) := statement _

theorem outside (w : Dir) (sz : Size) (low : BitVec 12) : Statement (.outside w sz low) := statement _

theorem rsvAccess (w : Dir) (sz : Size) (low : BitVec 14) : Statement (.rsvAccess w sz low) := statement _

theorem mtimeRd : Statement .mtimeRd := statement _

theorem mtimeWr (wdata : Dword) : Statement (.mtimeWr wdata) := statement _

theorem msipRd (idx : BitVec 12) : Statement (.msipRd idx) := statement _

theorem msipWr (idx : BitVec 12) (wdata : Word) : Statement (.msipWr idx wdata) := statement _

theorem mtimecmpRdLo (t : BitVec 11) : Statement (.mtimecmpRdLo t) := statement _

theorem mtimecmpRdHi (t : BitVec 11) : Statement (.mtimecmpRdHi t) := statement _

theorem mtimecmpWrLo (t : BitVec 11) (wdata : Dword) : Statement (.mtimecmpWrLo t wdata) := statement _

theorem mtimecmpWrHi (t : BitVec 11) (wdata : Dword) : Statement (.mtimecmpWrHi t wdata) := statement _

theorem badAccess (w : Dir) (sz : Size) (off : Offset) : Statement (.badAccess w sz off) := statement _

end Sys2Proof.Laws.EncodeFits
end

