-- ==== Sys2Proof/Laws/Steps.lean ====
section
/-! SUPPORT. What each transaction, host operation and move does, once for each: a lemma that gives the next state,
or all next states. -/

namespace Sys2Proof.Machine

/-! ### The rows of the decode table -/

theorem exec_msipRd_backed {idx : BitVec 12} {c : CoreId} (h : idx.toNat = c.val) (s : State) :
    exec (.msipRd idx) s = .next (setReply s.self (.data32 (msipWord c s)) s) := by
  rw [exec, execMsipRd, backed_eq_some.2 h]

theorem exec_msipRd_unbacked {idx : BitVec 12} (h : Config.numCores ≤ idx.toNat) (s : State) :
    exec (.msipRd idx) s = .next (raiseFault .unbackedIndex (some (msipOffset idx)) s) := by
  rw [exec, execMsipRd, backed_eq_none.2 h]

theorem exec_msipWr_backed {idx : BitVec 12} {c : CoreId} (h : idx.toNat = c.val) (v : Word) (s : State) :
    exec (.msipWr idx v) s = .next (setReply s.self .done (setMsip c v[0] s)) := by
  rw [exec, execMsipWr, backed_eq_some.2 h]

theorem exec_msipWr_unbacked {idx : BitVec 12} (h : Config.numCores ≤ idx.toNat) (v : Word) (s : State) :
    exec (.msipWr idx v) s = .next (raiseFault .unbackedIndex (some (msipOffset idx)) s) := by
  rw [exec, execMsipWr, backed_eq_none.2 h]

/-! ### The transactions of the host operations -/

theorem ofNat_core_toNat (d : CoreId) : (BitVec.ofNat 12 d.val).toNat = d.val := by
  have h := d.isLt
  simp only [Config.numCores] at h
  rw [BitVec.toNat_ofNat]; omega

theorem core_lt_maxCores (d : CoreId) : d.val < 4095 := by
  have h := d.isLt
  simp only [Config.numCores] at h
  omega

/-- `RD32 4*d` of a backed register answers its word (R100). -/
theorem transact_rd32_backed {s : State} (hm : s.core[s.self].mode = .machine) (d : CoreId) :
    transact (rd32 (msipAt d.val)) s =
      .next (setReply s.self (.data32 (msipWord d s)) (logTransaction (rd32 (msipAt d.val)) s)) := by
  rw [transact_machine hm, decode_rd32 (core_lt_maxCores d), exec_msipRd_backed (ofNat_core_toNat d)]
  rfl

/-- `WR32 4*d, v` of a backed register stores bit 0 (R101). -/
theorem transact_wr32_backed {s : State} (hm : s.core[s.self].mode = .machine) (d : CoreId) (v : Word) :
    transact (wr32 (msipAt d.val) v) s =
      .next (setReply s.self .done (setMsip d v[0] (logTransaction (wr32 (msipAt d.val) v) s))) := by
  rw [transact_machine hm, decode_wr32 (core_lt_maxCores d), exec_msipWr_backed (ofNat_core_toNat d)]
  rfl

/-- `RD32 4*i` of an unbacked register faults (R100). -/
theorem transact_rd32_unbacked {s : State} (hm : s.core[s.self].mode = .machine) {i : Nat}
    (h : Config.numCores ≤ i) (h' : i < 4095) :
    transact (rd32 (msipAt i)) s =
      .next (raiseFault .unbackedIndex (some (msipAt i)) (logTransaction (rd32 (msipAt i)) s)) := by
  have hi : (BitVec.ofNat 12 i).toNat = i := by rw [BitVec.toNat_ofNat]; omega
  rw [transact_machine hm, decode_rd32 h', exec_msipRd_unbacked (by rw [hi]; exact h),
    ← msipAt_eq (by omega)]

/-- `WR32 4*i, v` of an unbacked register faults (R101). -/
theorem transact_wr32_unbacked {s : State} (hm : s.core[s.self].mode = .machine) {i : Nat}
    (h : Config.numCores ≤ i) (h' : i < 4095) (v : Word) :
    transact (wr32 (msipAt i) v) s =
      .next (raiseFault .unbackedIndex (some (msipAt i)) (logTransaction (wr32 (msipAt i) v) s)) := by
  have hi : (BitVec.ofNat 12 i).toNat = i := by rw [BitVec.toNat_ofNat]; omega
  rw [transact_machine hm, decode_wr32 h', exec_msipWr_unbacked (by rw [hi]; exact h),
    ← msipAt_eq (by omega)]

/-- The step of a host operation that reads a backed MSIP register: it goes on with the answer. -/
theorem afterRead_backed {s : State} (hm : s.core[s.self].mode = .machine) (hs : stopped s.self s = false)
    (d : CoreId) (f : State → State) :
    afterAccess (transact (rd32 (msipAt d.val)) s) f =
      .next (f (setReply s.self (.data32 (msipWord d s)) (logTransaction (rd32 (msipAt d.val)) s))) := by
  rw [transact_rd32_backed hm]
  simp [afterAccess, andThen, hs]

/-- The step of a host operation that writes a backed MSIP register: it goes on. -/
theorem afterWrite_backed {s : State} (hm : s.core[s.self].mode = .machine) (hs : stopped s.self s = false)
    (d : CoreId) (v : Word) (f : State → State) :
    afterAccess (transact (wr32 (msipAt d.val) v) s) f =
      .next (f (setReply s.self .done (setMsip d v[0] (logTransaction (wr32 (msipAt d.val) v) s)))) := by
  rw [transact_wr32_backed hm]
  simp [afterAccess, andThen, hs]

/-- The step of a host operation that reads an unbacked MSIP register: the fault ends it. -/
theorem afterRead_unbacked {s : State} (hm : s.core[s.self].mode = .machine) {i : Nat} (h : Config.numCores ≤ i)
    (h' : i < 4095) (f : State → State) :
    afterAccess (transact (rd32 (msipAt i)) s) f =
      .next (raiseFault .unbackedIndex (some (msipAt i)) (logTransaction (rd32 (msipAt i)) s)) := by
  rw [transact_rd32_unbacked hm h h']
  simp [afterAccess, andThen]

/-- The step of a host operation that writes an unbacked MSIP register: the fault ends it. -/
theorem afterWrite_unbacked {s : State} (hm : s.core[s.self].mode = .machine) {i : Nat} (h : Config.numCores ≤ i)
    (h' : i < 4095) (v : Word) (f : State → State) :
    afterAccess (transact (wr32 (msipAt i) v) s) f =
      .next (raiseFault .unbackedIndex (some (msipAt i)) (logTransaction (wr32 (msipAt i) v) s)) := by
  rw [transact_wr32_unbacked hm h h']
  simp [afterAccess, andThen]

/-- A boundary fault in machine mode (R90). -/
theorem boundaryFault_machine {q : Reason} {a : Nat} {s : State} {off : Offset}
    (h : windowOffset s.platform.base a = some off) (hm : s.core[s.self].mode = .machine) :
    boundaryFault q a s = .next (raiseFault q (some off) s) := by
  rw [boundaryFault, h, hm]

/-- A request of another mode at the boundary (R78). -/
theorem boundaryFault_other {q : Reason} {a : Nat} {s : State} {off : Offset}
    (h : windowOffset s.platform.base a = some off) (hm : s.core[s.self].mode = .other) :
    boundaryFault q a s = .refused (.notMachineMode s.self) := by
  rw [boundaryFault, h, hm]

/-- Bit 0 of the word of an MSIP register is its stored bit (R22). -/
@[simp] theorem msipWord_bit (d : CoreId) (s : State) : (msipWord d s)[0] = s.msip[d] := by
  simp [msipWord]

/-! ### Moves -/

/-- A step of core `c`, as the step of what it goes on with. -/
theorem moveCore_advance {c : CoreId} {s : State} (hs : stopped c s = false) (hw : s.core[c].waiting = false) :
    runMove (.core c) s = advance c s := by
  simp only [runMove, moveCore, ifRunning, hs, hw]; rfl

theorem advance_idle {c : CoreId} {s : State} {q : Request} {rest : List Request}
    (hp : s.position[c] = .idle) (hq : s.program[c] = q :: rest) :
    advance c s = issue q (setProgram c rest (setSelf c s)) := by
  rw [advance, hp, hq]

theorem advance_initClear {c : CoreId} {s : State} {todo : List Nat} (hp : s.position[c] = .initClear todo) :
    advance c s = opInitClear todo (setSelf c s) := by
  rw [advance, hp]

theorem advance_clearWrite {c : CoreId} {s : State} {i : Nat} {b : Bool}
    (hp : s.position[c] = .clearWrite i b) : advance c s = opClearWrite i b (setSelf c s) := by
  rw [advance, hp]

/-- Every next state of a step of core `c`: the core runs, and it goes on with its operation or its next request. -/
theorem moveCore_eq_next {c : CoreId} {s t : State} (h : runMove (.core c) s = .next t) :
    stopped c s = false ∧ s.core[c].waiting = false ∧
      ((∃ todo, s.position[c] = .initClear todo ∧ opInitClear todo (setSelf c s) = .next t) ∨
       (∃ i b, s.position[c] = .clearWrite i b ∧ opClearWrite i b (setSelf c s) = .next t) ∨
       (∃ q rest, s.position[c] = .idle ∧ s.program[c] = q :: rest ∧
         issue q (setProgram c rest (setSelf c s)) = .next t)) := by
  simp only [runMove, moveCore, ifRunning_eq_next] at h
  obtain ⟨hs, h⟩ := h
  cases hw : s.core[c].waiting with
  | true => rw [hw] at h; simp at h
  | false =>
    rw [hw] at h
    refine ⟨hs, rfl, ?_⟩
    simp only [Bool.false_eq_true, if_false] at h
    cases hp : s.position[c] with
    | initClear todo => exact .inl ⟨todo, rfl, by rwa [advance_initClear hp] at h⟩
    | clearWrite i b => exact .inr (.inl ⟨i, b, rfl, by rwa [advance_clearWrite hp] at h⟩)
    | idle =>
      cases hq : s.program[c] with
      | nil => rw [advance, hp, hq] at h; simp at h
      | cons q rest => exact .inr (.inr ⟨q, rest, rfl, rfl, by rwa [advance_idle hp hq] at h⟩)

end Sys2Proof.Machine
end

