-- ==== Sys2Proof/Laws/Shape.lean ====
section
/-! SUPPORT. The shape of every step: what a core's step can do, said once, and the moves that are no core's step. -/

namespace Sys2Proof.Machine

/-- What a core's step may change before it accesses the block: the issuer, the programs, the draw counter, LSIE
and `mapped`. -/
structure Prepared (c : CoreId) (s u : State) : Prop where
  self : u.self = c
  msip : u.msip = s.msip
  mtimecmp : u.mtimecmp = s.mtimecmp
  mtime : u.mtime = s.mtime
  faults : u.faults = s.faults
  position : u.position = s.position
  core : u.core = s.core
  platform : u.platform = s.platform
  reply : u.reply = s.reply
  schedule : u.schedule = s.schedule
  history : u.history = s.history

/-- What a core's step may change after it has accessed the block: the position and the answer of `self`. -/
structure Concluded (v t : State) : Prop where
  self : t.self = v.self
  msip : t.msip = v.msip
  mtimecmp : t.mtimecmp = v.mtimecmp
  mtime : t.mtime = v.mtime
  lsie : t.lsie = v.lsie
  mapped : t.mapped = v.mapped
  faults : t.faults = v.faults
  core : t.core = v.core
  platform : t.platform = v.platform
  program : t.program = v.program
  schedule : t.schedule = v.schedule
  draws : t.draws = v.draws
  history : t.history = v.history
  others : ∀ d : CoreId, d ≠ v.self → t.position[d] = v.position[d] ∧ t.reply[d] = v.reply[d]

/-- A core's step from a prepared state: it accesses nothing, or raises a fault at the boundary, or applies one
transaction, and a transaction that faults ends the step. -/
inductive Access (u t : State) : Prop where
  | nothing (h : Concluded u t)
  | boundary (q : Reason) (off : Option Offset) (h : t = raiseFault q off u)
  | transaction (r : BusReq) (v : State) (h : transact r u = .next v) (h' : Concluded v t)
      (hf : stopped v.self v = true → t = v)

theorem Concluded.rfl' (v : State) : Concluded v v :=
  ⟨rfl, rfl, rfl, rfl, rfl, rfl, rfl, rfl, rfl, rfl, rfl, rfl, rfl, fun _ _ => ⟨rfl, rfl⟩⟩

theorem Concluded.setReply (r : Reply) (v : State) : Concluded v (setReply v.self r v) := by
  refine ⟨rfl, rfl, rfl, rfl, rfl, rfl, rfl, rfl, rfl, rfl, rfl, rfl, rfl, fun d hd => ⟨rfl, ?_⟩⟩
  simp [Ne.symm hd]

theorem Concluded.setPosition (p : Position) (v : State) : Concluded v (setPosition v.self p v) := by
  refine ⟨rfl, rfl, rfl, rfl, rfl, rfl, rfl, rfl, rfl, rfl, rfl, rfl, rfl, fun d hd => ⟨?_, rfl⟩⟩
  simp [Ne.symm hd]

theorem Concluded.finish (r : Reply) (v : State) : Concluded v (finish r v) := by
  refine ⟨rfl, rfl, rfl, rfl, rfl, rfl, rfl, rfl, rfl, rfl, rfl, rfl, rfl, fun d hd => ⟨?_, ?_⟩⟩ <;>
    simp [Ne.symm hd]

/-- A transaction, and a conclusion where it raised no fault. -/
theorem Access.of_afterAccess {r : BusReq} {u t : State} {f : State → State}
    (hf : ∀ v, Concluded v (f v)) (h : afterAccess (transact r u) f = .next t) : Access u t := by
  obtain ⟨v, hv, rfl⟩ := afterAccess_eq_next.1 h
  cases hs : stopped v.self v with
  | true => exact .transaction r v hv (by simpa using Concluded.rfl' v) (by simp)
  | false => exact .transaction r v hv (by simpa using hf v) (by simp [hs])

theorem Access.of_transact {r : BusReq} {u t : State} (h : transact r u = .next t) : Access u t :=
  .transaction r t h (Concluded.rfl' t) fun _ => rfl

theorem Access.of_opInitClear {todo : List Nat} {u t : State} (h : opInitClear todo u = .next t) : Access u t := by
  cases todo with
  | nil => cases h; exact .nothing (.finish _ _)
  | cons i more =>
    rw [opInitClear] at h
    split at h
    · refine .of_afterAccess (fun v => ?_) h
      split
      · exact .finish _ _
      · exact .setPosition _ _
    · cases h; exact .nothing (.finish _ _)

theorem Access.of_opClearWrite {i : Nat} {b : Bool} {u t : State} (h : opClearWrite i b u = .next t) :
    Access u t := by
  rw [opClearWrite] at h
  split at h
  · exact .of_afterAccess (fun v => .finish _ _) h
  · cases h; exact .nothing (.finish _ _)

theorem Access.of_opReadMsip {i : Nat} {u t : State} (h : opReadMsip i u = .next t) : Access u t := by
  rw [opReadMsip] at h
  split at h
  · cases h; exact .boundary _ _ rfl
  · split at h
    · exact .of_afterAccess (fun v => .finish _ _) h
    · cases h; exact .boundary _ _ rfl

theorem Access.of_opWriteMsip {i : Nat} {b : Bool} {u t : State} (h : opWriteMsip i b u = .next t) :
    Access u t := by
  rw [opWriteMsip] at h
  split at h
  · cases h; exact .boundary _ _ rfl
  · split at h
    · exact .of_afterAccess (fun v => .finish _ _) h
    · cases h; exact .boundary _ _ rfl

theorem Access.of_opSend {i : Nat} {u t : State} (h : opSend i u = .next t) : Access u t := by
  rw [opSend] at h
  split at h
  · cases h; exact .nothing (.finish _ _)
  · split at h
    · exact .of_afterAccess (fun v => .finish _ _) h
    · cases h; exact .nothing (.finish _ _)

theorem Access.of_opClear {i : Nat} {u t : State} (h : opClear i u = .next t) : Access u t := by
  rw [opClear] at h
  split at h
  · cases h; exact .nothing (.finish _ _)
  · split at h
    · exact .of_afterAccess (fun v => .setPosition _ _) h
    · cases h; exact .nothing (.finish _ _)

theorem Access.of_memAccess {w : Dir} {sz : Size} {a : Nat} {d : Dword} {u t : State}
    (h : memAccess w sz a d u = .next t) : Access u t := by
  rw [memAccess] at h
  split at h
  · cases h; exact .nothing (.setReply _ _)
  · exact .of_transact h

theorem Access.of_boundaryFault {q : Reason} {a : Nat} {u t : State} (h : boundaryFault q a u = .next t) :
    Access u t := by
  rw [boundaryFault] at h
  split at h
  · cases h; exact .nothing (.setReply _ _)
  · split at h
    · cases h; exact .boundary _ _ rfl
    · cases h

/-- Which preparations a request makes beyond the issuer, the program and the draw counter: only `enable` and
`disable` write LSIE, of the caller, and only `init` maps. -/
structure Prepares (c : CoreId) (q : Request) (s u : State) : Prop where
  lsie : u.lsie = s.lsie ∨ ((q = .op .enable ∨ q = .op .disable) ∧ ∀ d : CoreId, d ≠ c → u.lsie[d] = s.lsie[d])
  mapped : u.mapped = s.mapped ∨ (q = .op .init ∧ s.platform.mapAvailable = true ∧ u.mapped = true)

theorem Prepares.of_same {c : CoreId} {q : Request} {s u : State} (hl : u.lsie = s.lsie)
    (hm : u.mapped = s.mapped) : Prepares c q s u := ⟨.inl hl, .inl hm⟩

theorem Prepared.begin (c : CoreId) (rest : List Request) (s : State) :
    Prepared c s (setProgram c rest (setSelf c s)) :=
  ⟨rfl, rfl, rfl, rfl, rfl, rfl, rfl, rfl, rfl, rfl, rfl⟩

/-- The step in which core `c` issues a request. -/
theorem issue_shape {c : CoreId} {q : Request} {rest : List Request} {s t : State}
    (h : issue q (setProgram c rest (setSelf c s)) = .next t) :
    ∃ u, Prepared c s u ∧ Prepares c q s u ∧ Access u t := by
  have hb := Prepared.begin c rest s
  have hs : Prepares c q s (setProgram c rest (setSelf c s)) := .of_same rfl rfl
  cases q with
  | bus r => exact ⟨_, hb, hs, .of_transact h⟩
  | mem w sz a d => exact ⟨_, hb, hs, .of_memAccess h⟩
  | atomic a => exact ⟨_, hb, hs, .of_boundaryFault h⟩
  | fetch a => exact ⟨_, hb, hs, .of_boundaryFault h⟩
  | op o =>
    cases o with
    | readMsip i => exact ⟨_, hb, hs, .of_opReadMsip h⟩
    | writeMsip i b => exact ⟨_, hb, hs, .of_opWriteMsip h⟩
    | send i => exact ⟨_, hb, hs, .of_opSend h⟩
    | clear i => exact ⟨_, hb, hs, .of_opClear h⟩
    | enable =>
      simp only [issue, startOp, opEnable] at h
      split at h <;> cases h
      · refine ⟨setLsie c true (setProgram c rest (setSelf c s)),
          ⟨rfl, rfl, rfl, rfl, rfl, rfl, rfl, rfl, rfl, rfl, rfl⟩, ⟨.inr ⟨.inl rfl, fun d hd => ?_⟩, .inl rfl⟩,
          .nothing (.finish _ _)⟩
        simp [Ne.symm hd]
      · exact ⟨_, hb, hs, .nothing (.finish _ _)⟩
    | disable =>
      simp only [issue, startOp, opDisable] at h
      split at h <;> cases h
      · refine ⟨setLsie c false (setProgram c rest (setSelf c s)),
          ⟨rfl, rfl, rfl, rfl, rfl, rfl, rfl, rfl, rfl, rfl, rfl⟩, ⟨.inr ⟨.inr rfl, fun d hd => ?_⟩, .inl rfl⟩,
          .nothing (.finish _ _)⟩
        simp [Ne.symm hd]
      · exact ⟨_, hb, hs, .nothing (.finish _ _)⟩
    | init =>
      simp only [issue, startOp, opInit] at h
      split at h
      · cases h; exact ⟨_, hb, hs, .nothing (.finish _ _)⟩
      · split at h
        · exact ⟨addDraws Config.numCores (setProgram c rest (setSelf c s)),
            ⟨rfl, rfl, rfl, rfl, rfl, rfl, rfl, rfl, rfl, rfl, rfl⟩, .of_same rfl rfl, .of_opInitClear h⟩
        · split at h
          next hav =>
            exact ⟨setMapped true (setProgram c rest (setSelf c s)),
              ⟨rfl, rfl, rfl, rfl, rfl, rfl, rfl, rfl, rfl, rfl, rfl⟩, ⟨.inl rfl, .inr ⟨rfl, hav, rfl⟩⟩,
              .of_opInitClear h⟩
          · cases h; exact ⟨_, hb, hs, .nothing (.finish _ _)⟩

/-- Everything a step of core `c` can do: it prepares, and makes one access at most. LSIE and `mapped` change only
where the core issues an `enable`, a `disable` or an `init`. -/
theorem moveCore_shape {c : CoreId} {s t : State} (h : runMove (.core c) s = .next t) :
    stopped c s = false ∧ ∃ u, Prepared c s u ∧ Access u t ∧
      ((u.lsie = s.lsie ∧ u.mapped = s.mapped) ∨
        (s.position[c] = .idle ∧ ∃ q rest, s.program[c] = q :: rest ∧ Prepares c q s u)) := by
  obtain ⟨hs, -, h | h | h⟩ := moveCore_eq_next h
  · obtain ⟨todo, -, h⟩ := h
    exact ⟨hs, setSelf c s, ⟨rfl, rfl, rfl, rfl, rfl, rfl, rfl, rfl, rfl, rfl, rfl⟩, .of_opInitClear h,
      .inl ⟨rfl, rfl⟩⟩
  · obtain ⟨i, b, -, h⟩ := h
    exact ⟨hs, setSelf c s, ⟨rfl, rfl, rfl, rfl, rfl, rfl, rfl, rfl, rfl, rfl, rfl⟩, .of_opClearWrite h,
      .inl ⟨rfl, rfl⟩⟩
  · obtain ⟨q, rest, hp, hq, h⟩ := h
    obtain ⟨u, hu, hpu, ha⟩ := issue_shape h
    exact ⟨hs, u, hu, ha, .inr ⟨hp, q, rest, hq, hpu⟩⟩

/-- Everything a move can do that is no step of a core's program. -/
theorem runMove_other {m : Move} {s t : State} (hm : ∀ c, m ≠ .core c) (h : runMove m s = .next t) :
    (m = .tick ∧ t = setMtime (s.mtime + 1#64) s) ∨ (m = .teardown ∧ t = setMapped false s) ∨
    (∃ c r, m = .submit c r ∧ t = setProgram c (s.program[c] ++ [r]) s) ∨
    (∃ c q, stopped c s = false ∧ t = enterHandler q c s) ∨
    (∃ c k, stopped c s = false ∧ t = setCore c k s) := by
  cases m with
  | core c => exact absurd rfl (hm c)
  | tick => cases h; exact .inl ⟨rfl, rfl⟩
  | teardown => cases h; exact .inr (.inl ⟨rfl, rfl⟩)
  | submit c r => cases h; exact .inr (.inr (.inl ⟨c, r, rfl, rfl⟩))
  | takeMsi c =>
    simp only [runMove, moveTakeMsi, ifRunning_eq_next] at h
    obtain ⟨hs, h⟩ := h
    split at h <;> cases h
    exact .inr (.inr (.inr (.inl ⟨c, .msi, hs, rfl⟩)))
  | takeMti c =>
    simp only [runMove, moveTakeMti, ifRunning_eq_next] at h
    obtain ⟨hs, h⟩ := h
    split at h <;> cases h
    exact .inr (.inr (.inr (.inl ⟨c, .mti, hs, rfl⟩)))
  | wake c =>
    simp only [runMove, moveWake, ifRunning_eq_next] at h
    obtain ⟨hs, h⟩ := h
    split at h <;> cases h
    exact .inr (.inr (.inr (.inr ⟨c, _, hs, rfl⟩)))
  | coreModel c k =>
    simp only [runMove, moveCoreModel, ifRunning_eq_next] at h
    obtain ⟨hs, h⟩ := h
    cases h
    exact .inr (.inr (.inr (.inr ⟨c, k, hs, rfl⟩)))

/-- Everything a transaction that has a next state can do. -/
theorem transact_cases {r : BusReq} {u v : State} (h : transact r u = .next v) :
    TransactionOutcome (logTransaction r u) (.next v) := by
  rw [← (transact_eq_next.1 h).2]
  exact exec_cases _ _

end Sys2Proof.Machine
end

