-- ==== Sys2Proof/Tests/Slice0.lean ====
section
/-! SUPPORT. Tests. Expected values come from spec/95_test_vectors.md (S, V, T, H numbers) and from the patterns of
30_encoding.md R85; each test names its source. -/

namespace Sys2Proof.Tests

open Sys2Proof.Machine Sys2Proof.Safety

/-! ### A small state: the one the vectors start from (95_test_vectors.md, section 3) -/

/-- A core in machine mode that accepts interrupts. -/
def readyCore : CoreModel := ⟨.machine, true, true, false, true, none⟩

/-- `MSIP = [0, 1]`, `MTIMECMP = [0x10, 0x1000]`, `MTIME = 0x2A`, mapped, everything available. -/
def vectorState : State :=
  { State.reset with
    msip := #v[false, true]
    mtimecmp := #v[0x10#64, 0x1000#64]
    mtime := 0x2A#64
    mapped := true
    core := #v[readyCore, readyCore]
    platform := ⟨0x02000000, #v[true, true], true⟩ }

/-- The vectors' state with core `c` about to issue `q`. -/
def about (c : CoreId) (q : Request) : State := setProgram c [q] vectorState

def msipOf (o : Host.Outcome State Fault Refusal) : Option (Bool × Bool) :=
  match o with
  | .next t => some (t.msip[core0], t.msip[core1])
  | .fault _ => none
  | .refused _ => none

def replyOf (c : CoreId) (o : Host.Outcome State Fault Refusal) : Option Reply :=
  match o with
  | .next t => some t.reply[c]
  | .fault _ => none
  | .refused _ => none

def faultsOf (o : Host.Outcome State Fault Refusal) : Option (List FaultRecord) :=
  match o with
  | .next t => some t.faults
  | .fault _ => none
  | .refused _ => none

/-- The bits of the fault record that the vectors give. -/
def record (q : Reason) (off : Offset) : FaultRecord := ⟨core0, q, some off⟩

def isNext (o : Host.Outcome State Fault Refusal) : Bool :=
  match o with
  | .next _ => true
  | .fault _ => false
  | .refused _ => false

/-! ### Words written out from the patterns of R85: W, SZ, OFF -/

theorem test_decode_padAccess : decode ⟨0b0_10_0011111111111100#19, 0⟩ = .padAccess .read .b4 := by decide
theorem test_decode_outside : decode ⟨0b0_10_1111000000000000#19, 0⟩ = .outside .read .b4 0 := by decide
theorem test_decode_rsvAccess : decode ⟨0b1_10_1110111111111100#19, 0⟩ = .rsvAccess .write .b4 0x2FFC := by decide
theorem test_decode_mtimeRd : decode ⟨0b0_11_1011111111111000#19, 0⟩ = .mtimeRd := by decide
theorem test_decode_mtimeWr : decode ⟨0b1_11_1011111111111000#19, 9⟩ = .mtimeWr 9 := by decide
theorem test_decode_msipRd : decode ⟨0b0_10_0011111111111000#19, 0⟩ = .msipRd 4094 := by decide
theorem test_decode_msipWr : decode ⟨0b1_10_0000000000000100#19, 0x80000001⟩ = .msipWr 1 0x80000001 := by decide
theorem test_decode_mtimecmpRdLo : decode ⟨0b0_11_0111111111111000#19, 0⟩ = .mtimecmpRdLo 2047 := by decide
theorem test_decode_mtimecmpRdHi : decode ⟨0b0_11_1000000000000000#19, 0⟩ = .mtimecmpRdHi 0 := by decide
theorem test_decode_mtimecmpWrLo : decode ⟨0b1_11_0100000000001000#19, 5⟩ = .mtimecmpWrLo 1 5 := by decide
theorem test_decode_mtimecmpWrHi : decode ⟨0b1_11_1011111111110000#19, 5⟩ = .mtimecmpWrHi 2046 5 := by decide
/-- V11, V13: a misaligned access, and a 2-byte access. -/
theorem test_decode_badAccess : decode ⟨0b0_10_0000000000000010#19, 0⟩ = .badAccess .read .b4 2 ∧
    decode ⟨0b0_01_0000000000000000#19, 0⟩ = .badAccess .read .b2 0 := by decide
theorem test_decode_notAKey : decodeTableWord 24 0x80000 = none ∧
    decodeTableWord 24 0x7FFFF = some (.outside .write .b8 0xFFF) := by decide

/-- The keys of section 2 of 95_test_vectors.md, written by the encoder. -/
theorem test_encode_layout : (encode (.msipRd 1)).key = 0x20004#19 ∧ (encode (.msipWr 4094 1)).key = 0x63FF8#19 ∧
    (encode (.mtimecmpRdLo 2047)).key = 0x37FF8#19 ∧ (encode (.mtimecmpWrHi 0 1)).key = 0x78000#19 := by decide

/-! ### WellFormed refuses an ill-formed term for each check -/

theorem test_illFormed_rsv : wellFormed (.rsvAccess .read .b4 0x3000) = false := by decide
theorem test_illFormed_msip : wellFormed (.msipRd 0xFFF) = false ∧ wellFormed (.msipWr 0xFFF 0) = false := by decide
theorem test_illFormed_timer : wellFormed (.mtimecmpRdHi 0x7FF) = false ∧
    wellFormed (.mtimecmpWrHi 0x7FF 0) = false := by decide
theorem test_illFormed_bad : wellFormed (.badAccess .read .b1 0x3FFC) = false ∧
    wellFormed (.badAccess .read .b1 0xC000) = false ∧ wellFormed (.badAccess .read .b4 0x0004) = false ∧
    wellFormed (.badAccess .read .b8 0xBFF8) = false := by decide
theorem test_wellFormed_bad : wellFormed (.badAccess .read .b8 0x3FF8) = true ∧
    wellFormed (.badAccess .write .b4 0xBFFC) = true := by decide

/-! ### Transactions: one exec each -/

/-- V1, V2. -/
theorem test_msipRd : replyOf core0 (exec (.msipRd 0) vectorState) = some (.data32 0) ∧
    replyOf core0 (exec (.msipRd 1) vectorState) = some (.data32 1) := by decide
/-- V7. -/
theorem test_msipRd_unbacked :
    faultsOf (exec (.msipRd 2) vectorState) = some [record .unbackedIndex 0x0008] := by decide
/-- V3, V5, V6. -/
theorem test_msipWr : msipOf (exec (.msipWr 0 1) vectorState) = some (true, true) ∧
    msipOf (exec (.msipWr 1 0xFFFFFFFE) vectorState) = some (false, false) ∧
    msipOf (exec (.msipWr 0 0x80000001) vectorState) = some (true, true) := by decide
/-- V8. -/
theorem test_msipWr_unbacked :
    faultsOf (exec (.msipWr 4094 1) vectorState) = some [record .unbackedIndex 0x3FF8] := by decide
/-- V16, V18. -/
theorem test_mtimecmpRdLo : replyOf core0 (exec (.mtimecmpRdLo 0) vectorState) = some (.data64 0x10) ∧
    faultsOf (exec (.mtimecmpRdLo 2) vectorState) = some [record .unbackedIndex 0x4010] := by decide
/-- V21. -/
theorem test_mtimecmpRdHi :
    faultsOf (exec (.mtimecmpRdHi 0) vectorState) = some [record .unbackedIndex 0x8000] := by decide
/-- V17: MTIMECMP[1] = 1 lies below MTIME, so the level of core 1 rises. -/
theorem test_mtimecmpWrLo :
    (match exec (.mtimecmpWrLo 1 1) vectorState with
      | .next t => t.mtimecmp[core1] == 1 && mtipIrq core1 t && !mtipIrq core1 vectorState
      | _ => false) = true := by decide
/-- V22. -/
theorem test_mtimecmpWrHi :
    faultsOf (exec (.mtimecmpWrHi 0x7FE 0) vectorState) = some [record .unbackedIndex 0xBFF0] := by decide
/-- V23. -/
theorem test_mtimeRd : replyOf core0 (exec .mtimeRd vectorState) = some (.data64 0x2A) := by decide
/-- V24. -/
theorem test_mtimeWr : faultsOf (exec (.mtimeWr 0) vectorState) = some [record .readOnly 0xBFF8] := by decide
/-- V10, V28, V31, V15: the keys 0x73FFC, 0x6EFFC, 0x7FFF8, 0x33FF8. -/
theorem test_unmeant : faultsOf (exec (decode ⟨0x73FFC, 0⟩) vectorState) = some [record .reserved 0x3FFC] ∧
    faultsOf (exec (decode ⟨0x6EFFC, 0⟩) vectorState) = some [record .reserved 0xEFFC] ∧
    faultsOf (exec (decode ⟨0x7FFF8, 0⟩) vectorState) = some [record .outsideBlock 0xFFF8] ∧
    faultsOf (exec (decode ⟨0x33FF8, 0⟩) vectorState) = some [record .badAccess 0x3FF8] := by decide

/-! ### Host operations and events: one step each -/

/-- H7, H10, H13. -/
theorem test_send : replyOf core0 (runMove (.core core0) (about core0 (.op (.send 1)))) = some (.send .ok) ∧
    replyOf core0 (runMove (.core core0) (about core0 (.op (.send 2)))) = some (.send .outOfRange) ∧
    replyOf core0 (runMove (.core core0) (setMapped false (about core0 (.op (.send 7)))))
      = some (.send .outOfRange) := by decide
/-- H14, step 1: the read leaves the bit. -/
theorem test_clear_reads : msipOf (runMove (.core core0) (about core0 (.op (.clear 1)))) = some (false, true) := by
  decide
/-- H14, step 2. -/
theorem test_clear_writes :
    msipOf (runMove (.core core0) (setPosition core0 (.clearWrite 1 true) vectorState)) = some (false, false) ∧
    replyOf core0 (runMove (.core core0) (setPosition core0 (.clearWrite 1 true) vectorState))
      = some (.clear .pendingCleared) := by decide
/-- H17: torn down between the read and the write. -/
theorem test_clear_torn :
    msipOf (runMove (.core core0) (setMapped false (setPosition core0 (.clearWrite 1 true) vectorState)))
      = some (false, true) ∧
    replyOf core0 (runMove (.core core0) (setMapped false (setPosition core0 (.clearWrite 1 true) vectorState)))
      = some (.clear .accessFailure) := by decide
/-- H18, H19, H20. -/
theorem test_readMsip : replyOf core0 (runMove (.core core0) (about core0 (.op (.readMsip 1)))) = some (.bit true) ∧
    faultsOf (runMove (.core core0) (about core0 (.op (.readMsip 2)))) = some [record .unbackedIndex 0x0008] ∧
    faultsOf (runMove (.core core0) (about core0 (.op (.readMsip 4095)))) = some [⟨core0, .precondition, none⟩] := by
  decide
/-- H21, H22. -/
theorem test_writeMsip : faultsOf (runMove (.core core0) (setMapped false (about core0 (.op (.writeMsip 0 true)))))
      = some [⟨core0, .notMapped, none⟩] ∧
    msipOf (runMove (.core core0) (about core0 (.op (.writeMsip 0 true)))) = some (true, true) := by decide
/-- H1, first step: the bit of core 0 is cleared, the bit of core 1 is still to be cleared. -/
theorem test_init_first :
    (match runMove (.core core0) (setMapped false (about core0 (.op .init))) with
      | .next t => t.mapped && t.msip[core1] && t.position[core0] == .initClear [1]
      | _ => false) = true := by decide
/-- H4, H6. -/
theorem test_enable_disable :
    (match runMove (.core core0) (about core0 (.op .enable)) with
      | .next t => t.lsie[core0] && t.reply[core0] == .mask .ok
      | _ => false) = true ∧
    (match runMove (.core core1) (setLsie core1 true (about core1 (.op .disable))) with
      | .next t => !t.lsie[core1] && t.msip[core1]
      | _ => false) = true := by decide
/-- The delivery table of section 5: TakeMSI(c) is enabled in its last row only. -/
theorem test_takeMsi : isNext (runMove (.takeMsi core1) (setLsie core1 true vectorState)) = true ∧
    isNext (runMove (.takeMsi core1) vectorState) = false ∧
    isNext (runMove (.takeMsi core0) (setLsie core0 true vectorState)) = false := by decide
/-- The table of R28. -/
theorem test_ipiState : ipiState core1 vectorState = .disabledPending ∧ ipiState core0 vectorState = .disabled ∧
    ipiState core1 (setLsie core1 true vectorState) = .pending ∧
    ipiState core0 (setLsie core0 true vectorState) = .enabled := by decide
/-- T1 to T6. -/
theorem test_mtipIrq : mtipIrq core0 (setMtime 0x10 vectorState) = true ∧
    mtipIrq core0 (setMtime 0xF vectorState) = false ∧
    mtipIrq core0 (setMtime 0x8000000000000000 vectorState) = true ∧
    mtipIrq core0 (setMtimecmp core0 0xFFFFFFFFFFFFFFFF (setMtime 0xFFFFFFFFFFFFFFFE vectorState)) = false := by
  decide
/-- T4. -/
theorem test_tick_wraps :
    (match runMove .tick (setMtime 0xFFFFFFFFFFFFFFFF vectorState) with
      | .next t => t.mtime == 0
      | _ => false) = true := by decide
/-- R57: absolute addresses at the default base. -/
theorem test_windowOffset : windowOffset 0x02000000 0x02000004 = some 4 ∧
    windowOffset 0x02000000 0x0200BFF8 = some 0xBFF8 ∧ windowOffset 0x02000000 0x0200F000 = none ∧
    windowOffset 0x02000000 0x01FFFFFF = none := by decide
/-- S5 and R59: bytes of MSIP[1], MTIMECMP[1] and MTIME; none in the padding. -/
theorem test_windowByte : windowByte 4 vectorState = some 1 ∧ windowByte 0x4009 vectorState = some 0x10 ∧
    windowByte 0xBFF8 vectorState = some 0x2A ∧ windowByte 0x3FFC vectorState = none := by decide
/-- R90, R78: a request from another mode is refused; a first transaction after reset runs. -/
theorem test_boundary :
    (match runMove (.core core0) (setCore core0 { readyCore with mode := .other } (about core0 (.bus (rd32 0)))) with
      | .refused r => r == .notMachineMode core0
      | _ => false) = true ∧
    isNext (step (State.reset.withFetchWord 24 0x60004)) = true := by decide

/-! ### Witnesses: every statement's hypotheses are met together -/

theorem able_vector (c : CoreId) : Able c vectorState := by
  have h : ∀ c : CoreId, Able c vectorState := fun c => ⟨by revert c; decide, by revert c; decide, by revert c; decide⟩
  exact h c

/-- Core `c` about to issue `q`. -/
theorem issues_about (c : CoreId) (q : Request) : Issues c q [] (about c q) :=
  ⟨⟨(able_vector c).running, (able_vector c).awake, (able_vector c).mode⟩, show vectorState.position[c] = .idle by revert c; decide,
    by simp [about]⟩

theorem test_witness_DecodeEncode : ∃ i, wellFormed i = true := ⟨.msipRd 1, by decide⟩

theorem test_witness_LayoutCovers : (0 < 0xF000) ∧ 0xF000 ≤ 0xF000 := by decide

theorem test_witness_WindowBytes : (3 : Nat) < 4 ∧ 7 = 4 * core1.val + 3 ∧ (7 : Nat) < 8 ∧
    0x400F = 0x4000 + 8 * core1.val + 7 ∧ 0xBFFF = 0xBFF8 + 7 := by decide

theorem test_witness_ByteAddress :
    (vectorState.platform.base ≤ 0x0200EFFF ∧ 0x0200EFFF < vectorState.platform.base + 0xF000) ∧
    ¬(vectorState.platform.base ≤ 0x0200F000 ∧ 0x0200F000 < vectorState.platform.base + 0xF000) := by decide

theorem test_witness_MsipRead : 0x20004#19 &&& 0x7C003#19 = 0x20000#19 ∧ 0x20004#19 ≠ 0x23FFC#19 ∧
    (1#12).toNat = core1.val ∧ Config.numCores ≤ (2#12).toNat := by decide

theorem test_witness_MsipWrite : 0x60004#19 &&& 0x7C003#19 = 0x60000#19 ∧ 0x60004#19 ≠ 0x63FFC#19 ∧
    (1#12).toNat = core1.val ∧ core0 ≠ core1 ∧ Config.numCores ≤ (2#12).toNat := by decide

theorem test_witness_MtimecmpReadLo : 0x34008#19 &&& 0x7C007#19 = 0x34000#19 ∧ (1#11).toNat = core1.val ∧
    Config.numCores ≤ (2#11).toNat := by decide

theorem test_witness_MtimecmpReadHi : 0x3BFF0#19 &&& 0x7C007#19 = 0x38000#19 ∧ 0x3BFF0#19 ≠ 0x3BFF8#19 := by decide

theorem test_witness_MtimecmpWriteLo : 0x74008#19 &&& 0x7C007#19 = 0x74000#19 ∧ (1#11).toNat = core1.val ∧
    core0 ≠ core1 ∧ Config.numCores ≤ (2#11).toNat := by decide

theorem test_witness_MtimecmpWriteHi : 0x7BFF0#19 &&& 0x7C007#19 = 0x78000#19 ∧ 0x7BFF0#19 ≠ 0x7BFF8#19 := by decide

theorem test_witness_PadAccess : 0x73FFC#19 &&& 0x0FFFF#19 = 0x03FFC#19 := by decide

theorem test_witness_OutsideAccess : 0x2F000#19 &&& 0x0F000#19 = 0x0F000#19 := by decide

theorem test_witness_ReservedAccess : 0x2EFFC#19 &&& 0x0C000#19 = 0x0C000#19 ∧
    0x2EFFC#19 &&& 0x0F000#19 ≠ 0x0F000#19 := by decide

theorem test_witness_BadAccess : rowOf (decode ⟨0x30000#19, 0⟩) = .badAccess := by decide

theorem test_witness_ReadsKeepRegisters : (0x20004#19)[18] = false := by decide

theorem test_witness_ByteFrame : ∃ t, exec (.msipWr 1 0) vectorState = .next t ∧
    ∀ a n, storeRange (.msipWr 1 0) = some (a, n) → 8 < a ∨ a + n ≤ 8 := by
  refine ⟨_, rfl, fun a n h => ?_⟩
  obtain ⟨rfl, rfl⟩ : a = 4 ∧ n = 4 := by simpa [storeRange, msipOffset, eq_comm] using h
  decide

theorem test_witness_MsipIdempotent : ∃ t, (1#32)[0] = (0x80000001#32)[0] ∧
    exec (.msipWr 0 1) vectorState = .next t := ⟨_, by decide, rfl⟩

theorem test_witness_MsipReadsBackBit0 : (1#12).toNat = core1.val := by decide

theorem test_witness_StepRunsDecoded :
    (setSchedule [.core core0] (about core0 (.bus (rd32 4)))).schedule = .core core0 :: [] ∧
    Issues core0 (.bus (rd32 4)) [] (setSchedule [.core core0] (about core0 (.bus (rd32 4)))) := by
  have h := issues_about core0 (.bus (rd32 4))
  exact ⟨rfl, ⟨h.able.running, h.able.awake, h.able.mode⟩, h.idle, h.program⟩

/-- The state of core 0 in another mode, about to issue a transaction. -/
def otherMode (q : Request) : State := setCore core0 { readyCore with mode := .other } (about core0 q)

theorem test_witness_OtherModeRefused : stopped core0 (otherMode (.fetch 0x02000000)) = false ∧
    (otherMode (.fetch 0x02000000)).core[core0].waiting = false ∧
    (otherMode (.fetch 0x02000000)).core[core0].mode = .other ∧
    (otherMode (.fetch 0x02000000)).position[core0] = .idle ∧
    (otherMode (.fetch 0x02000000)).program[core0] = [.fetch 0x02000000] ∧
    (otherMode (.fetch 0x02000000)).platform.base ≤ 0x02000000 ∧
    0x02000000 < (otherMode (.fetch 0x02000000)).platform.base + 0xF000 := by decide

theorem test_witness_AtomicAndFetchFault :
    ((about core0 (.atomic 0x02000004)).platform.base ≤ 0x02000004 ∧
      0x02000004 < (about core0 (.atomic 0x02000004)).platform.base + 0xF000) ∧
    Issues core0 (.atomic 0x02000004) [] (about core0 (.atomic 0x02000004)) ∧
    Issues core0 (.fetch 0x02000004) [] (about core0 (.fetch 0x02000004)) :=
  ⟨by decide, issues_about _ _, issues_about _ _⟩

theorem test_witness_ReadMsip : Issues core0 (.op (.readMsip 1)) [] (about core0 (.op (.readMsip 1))) ∧
    1 = core1.val ∧ (about core0 (.op (.readMsip 1))).mapped = true ∧
    Issues core0 (.op (.readMsip 4094)) [] (about core0 (.op (.readMsip 4094))) ∧ Config.numCores ≤ 4094 ∧
    Issues core0 (.op (.readMsip 4095)) [] (about core0 (.op (.readMsip 4095))) :=
  ⟨issues_about _ _, rfl, rfl, issues_about _ _, by decide, issues_about _ _⟩

theorem test_witness_WriteMsip : Issues core0 (.op (.writeMsip 1 true)) [] (about core0 (.op (.writeMsip 1 true))) ∧
    1 = core1.val ∧ core0 ≠ core1 ∧ (about core0 (.op (.writeMsip 1 true))).mapped = true :=
  ⟨issues_about _ _, rfl, by decide, rfl⟩

theorem test_witness_Send : Issues core0 (.op (.send 1)) [] (about core0 (.op (.send 1))) ∧ 1 = core1.val ∧
    core0 ≠ core1 ∧ (about core0 (.op (.send 1))).mapped = true ∧
    Issues core0 (.op (.send 2)) [] (about core0 (.op (.send 2))) ∧ Config.numCores ≤ 2 :=
  ⟨issues_about _ _, rfl, by decide, rfl, issues_about _ _, by decide⟩

theorem test_witness_ClearReads : Issues core0 (.op (.clear 1)) [] (about core0 (.op (.clear 1))) ∧ 1 = core1.val ∧
    (about core0 (.op (.clear 1))).mapped = true :=
  ⟨issues_about _ _, rfl, rfl⟩

theorem test_witness_ClearWrites : Able core0 (setPosition core0 (.clearWrite core1.val true) vectorState) ∧
    (setPosition core0 (.clearWrite core1.val true) vectorState).position[core0] = .clearWrite core1.val true ∧
    core0 ≠ core1 :=
  ⟨⟨rfl, rfl, rfl⟩, by decide, by decide⟩

/-- The vectors' state before `init` has run. -/
def unmapped (q : Request) : State := setMapped false (about core0 q)

theorem issues_unmapped (q : Request) : Issues core0 q [] (unmapped q) := by
  have h := issues_about core0 q
  exact ⟨⟨h.able.running, h.able.awake, h.able.mode⟩, h.idle, h.program⟩

/-- The clauses without a mapping of Send, ClearReads, ReadMsip, WriteMsip, ClearWrites and InitContinues. -/
theorem test_witness_unmapped : Issues core0 (.op (.send 1)) [] (unmapped (.op (.send 1))) ∧
    Issues core0 (.op (.clear 1)) [] (unmapped (.op (.clear 1))) ∧ 1 < Config.numCores ∧
    Issues core0 (.op (.readMsip 4094)) [] (unmapped (.op (.readMsip 4094))) ∧
    Issues core0 (.op (.writeMsip 4094 true)) [] (unmapped (.op (.writeMsip 4094 true))) ∧
    (∀ q, (unmapped q).mapped = false) ∧
    Able core0 (setMapped false (setPosition core0 (.clearWrite core1.val true) vectorState)) ∧
    Able core0 (setMapped false (setPosition core0 (.initClear [core1.val]) vectorState)) :=
  ⟨issues_unmapped _, issues_unmapped _, by decide, issues_unmapped _, issues_unmapped _, fun _ => rfl,
    ⟨rfl, rfl, rfl⟩, ⟨rfl, rfl, rfl⟩⟩

/-- The out-of-range clauses of WriteMsip and ClearReads, and InitContinues with an index left. -/
theorem test_witness_bounds : Issues core0 (.op (.writeMsip 4094 true)) [] (about core0 (.op (.writeMsip 4094 true))) ∧
    Config.numCores ≤ 4094 ∧
    Issues core0 (.op (.writeMsip 4095 true)) [] (about core0 (.op (.writeMsip 4095 true))) ∧
    Issues core0 (.op (.clear 2)) [] (about core0 (.op (.clear 2))) ∧ Config.numCores ≤ 2 ∧
    Able core0 (setPosition core0 (.initClear [core0.val, core1.val]) vectorState) :=
  ⟨issues_about _ _, by decide, issues_about _ _, issues_about _ _, by decide, ⟨rfl, rfl, rfl⟩⟩

theorem test_witness_InitFirstCall : Issues core0 (.op .init) [] (unmapped (.op .init)) ∧
    (unmapped (.op .init)).mapped = false ∧ (unmapped (.op .init)).platform.mapAvailable = true :=
  ⟨issues_unmapped _, rfl, rfl⟩

/-- A platform whose window cannot be mapped. -/
def unmappable : State := { unmapped (.op .init) with platform := ⟨0x02000000, #v[false, false], false⟩ }

theorem test_witness_InitFails : Issues core0 (.op .init) [] unmappable ∧ unmappable.mapped = false ∧
    unmappable.platform.mapAvailable = false :=
  ⟨⟨⟨rfl, rfl, rfl⟩, rfl, rfl⟩, rfl, rfl⟩

theorem test_witness_InitLaterCall : Issues core0 (.op .init) [] (about core0 (.op .init)) ∧
    (about core0 (.op .init)).mapped = true := ⟨issues_about _ _, rfl⟩

theorem test_witness_InitContinues : Able core0 (setPosition core0 (.initClear [core1.val]) vectorState) ∧
    (setPosition core0 (.initClear [core1.val]) vectorState).position[core0] = .initClear (core1.val :: []) ∧
    core0 ≠ core1 :=
  ⟨⟨rfl, rfl, rfl⟩, by decide, by decide⟩

theorem test_witness_EnableDisable :
    Issues core0 (.op (if true then .enable else .disable)) [] (about core0 (.op .enable)) ∧
    (about core0 (.op .enable)).platform.enableAvailable[core0] = true ∧
    unmappable.platform.enableAvailable[core0] = false ∧ core1 ≠ core0 ∧
    Issues core1 (.op (if false then .enable else .disable)) [] (about core1 (.op .disable)) ∧
    (about core1 (.op .disable)).msip[core1] = true ∧ (about core1 (.op .disable)).core[core1].accepts = true :=
  ⟨issues_about core0 (.op .enable), by decide, by decide, by decide, issues_about core1 (.op .disable), by decide,
    by decide⟩

theorem test_witness_IpiStateMachine : Issues core0 (.op .enable) [] (about core0 (.op .enable)) ∧
    Issues core0 (.op .disable) [] (about core0 (.op .disable)) ∧
    Issues core0 (.op (.send core1.val)) [] (about core0 (.op (.send core1.val))) ∧
    Issues core0 (.op (.clear core1.val)) [] (about core0 (.op (.clear core1.val))) ∧
    vectorState.platform.enableAvailable[core0] = true ∧ vectorState.mapped = true ∧ core1 ≠ core0 :=
  ⟨issues_about _ _, issues_about _ _, issues_about _ _, issues_about _ _, by decide, rfl, by decide⟩

/-- Core 0 about to clear twice. -/
def clearTwice : State := setProgram core0 [.op (.clear 1), .op (.clear 1)] vectorState

theorem test_witness_ClearTwice : Issues core0 (.op (.clear core1.val)) [.op (.clear core1.val)] clearTwice ∧
    clearTwice.mapped = true :=
  ⟨⟨⟨rfl, rfl, rfl⟩, rfl, by decide⟩, rfl⟩

theorem test_witness_MaskingKeepsPending : Issues core0 (.op .disable) [] (about core0 (.op .disable)) ∧
    Issues core0 (.op (.send core1.val)) [] (about core0 (.op (.send core1.val))) ∧
    (about core0 (.op (.send core1.val))).mapped = true ∧
    (about core0 (.op (.send core1.val))).lsie[core1] = false ∧
    ∃ t, runMove .tick vectorState = .next t ∧ vectorState.lsie[core1] = false ∧ NoMsipWrite core1 vectorState t :=
  ⟨issues_about _ _, issues_about _ _, rfl, by decide, _, rfl, by decide, .inl rfl⟩

/-- Core 0 about to clear, core 1 about to send. -/
def clearAgainstSend (i j : Nat) : State := setProgram core0 [.op (.clear i)] (about core1 (.op (.send j)))

theorem test_witness_LostSend : core0 ≠ core1 ∧ (clearAgainstSend 1 1).mapped = true ∧
    Issues core0 (.op (.clear core1.val)) [] (clearAgainstSend 1 1) ∧
    Issues core1 (.op (.send core1.val)) [] (clearAgainstSend 1 1) :=
  ⟨by decide, rfl, ⟨⟨rfl, rfl, rfl⟩, rfl, by decide⟩, ⟨⟨rfl, rfl, rfl⟩, rfl, by decide⟩⟩

/-- Core 0 about to send to core 1, core 1 to core 0 (program P3). -/
def sendAgainstSend : State := setProgram core0 [.op (.send 1)] (about core1 (.op (.send 0)))

theorem test_witness_MsipCellsIndependent :
    (∃ t, exec (.msipWr 1 0) vectorState = .next t ∧ core0.val ≠ (1#12).toNat) ∧
    (∃ t, exec (.msipRd 1) vectorState = .next t ∧ (1#12).toNat = core1.val) ∧
    core0 ≠ core1 ∧ core1 ≠ core0 ∧ sendAgainstSend.mapped = true ∧
    Issues core0 (.op (.send core1.val)) [] sendAgainstSend ∧
    Issues core1 (.op (.send core0.val)) [] sendAgainstSend :=
  ⟨⟨_, rfl, by decide⟩, ⟨_, rfl, by decide⟩, by decide, by decide, rfl, ⟨⟨rfl, rfl, rfl⟩, rfl, by decide⟩, ⟨⟨rfl, rfl, rfl⟩, rfl, by decide⟩⟩

/-- Core 1 with its interrupt deliverable, about to issue `q`. -/
def deliverable (q : Request) : State := setLsie core1 true (about core1 q)

/-- Core 1 takes its interrupt, and MTIME ticks. -/
def afterTrap (q : Request) : State := setMtime 0x2B (enterHandler .msi core1 (deliverable q))

theorem undisturbed_afterTrap (q : Request) :
    runMove (.takeMsi core1) (deliverable q) = .next (enterHandler .msi core1 (deliverable q)) ∧
    Undisturbed core1 (enterHandler .msi core1 (deliverable q)) (afterTrap q) :=
  ⟨rfl, .move .tick (.refl _) rfl (.inl rfl)⟩

theorem issues_afterTrap (q : Request) : Issues core1 q [] (afterTrap q) ∧ (afterTrap q).mapped = true :=
  ⟨⟨⟨rfl, rfl, rfl⟩, rfl, rfl⟩, rfl⟩

theorem test_witness_TrapThenRead : ∃ s t u, runMove (.takeMsi core1) s = .next t ∧ Undisturbed core1 t u ∧
    Issues core1 (.op (.readMsip core1.val)) [] u ∧ u.mapped = true :=
  have h := undisturbed_afterTrap (.op (.readMsip core1.val))
  ⟨_, _, _, h.1, h.2, issues_afterTrap _⟩

theorem test_witness_TrapThenRead_others :
    (∃ s t u, runMove (.takeMsi core1) s = .next t ∧ Undisturbed core1 t u ∧
      Issues core1 (.op (.clear core1.val)) [] u ∧ u.mapped = true) ∧
    (∃ s t u, runMove (.takeMsi core1) s = .next t ∧ Undisturbed core1 t u ∧
      Issues core1 (.bus (rd32 (msipOffset (BitVec.ofNat 12 core1.val)))) [] u) :=
  have h := undisturbed_afterTrap (.op (.clear core1.val))
  have k := undisturbed_afterTrap (.bus (rd32 (msipOffset (BitVec.ofNat 12 core1.val))))
  ⟨⟨_, _, _, h.1, h.2, issues_afterTrap _⟩, ⟨_, _, _, k.1, k.2, (issues_afterTrap _).1⟩⟩

/-- A step that does put a transaction into the order, of another register, disturbs nothing. -/
theorem test_undisturbed_write : ∃ t, runMove (.core core0) (about core0 (.bus (wr32 0 1))) = .next t ∧
    t.history ≠ [] ∧ NoMsipWrite core1 (about core0 (.bus (wr32 0 1))) t :=
  ⟨_, rfl, by simp [about, logTransaction], .inr ⟨core0, wr32 0 1, rfl, by decide⟩⟩

/-- A state whose next step is Tick. -/
def tickNext : State := setSchedule [.tick] vectorState

theorem test_witness_OrderKept : ∃ t,
    FollowsOrder (fun c => tickNext.msip[c]) (fun c => tickNext.mtimecmp[c]) tickNext ∧ step tickNext = .next t :=
  ⟨_, ⟨fun _ => rfl, fun _ => rfl⟩, rfl⟩

theorem test_witness_OneTransactionAStep : ∃ t, step tickNext = .next t := ⟨_, rfl⟩

theorem test_witness_TakeMsi : ∃ t, runMove (.takeMsi core1) (setLsie core1 true vectorState) = .next t ∧
    core0 ≠ core1 := ⟨_, rfl, by decide⟩

theorem test_witness_TakeMti : ∃ t, runMove (.takeMti core0) vectorState = .next t ∧ core1 ≠ core0 :=
  ⟨_, rfl, by decide⟩

theorem test_witness_WakeStep : ∃ t,
    runMove (.wake core1) (setCore core1 { readyCore with waiting := true } vectorState) = .next t := ⟨_, rfl⟩

theorem test_witness_OnlyTickCounts : ∃ t, Move.teardown ≠ .tick ∧ runMove .teardown vectorState = .next t :=
  ⟨_, by decide, rfl⟩

theorem test_witness_OnlyOwnEnable : ∃ t, runMove (.core core0) (about core0 (.op .enable)) = .next t ∧
    t.lsie[core0] ≠ (about core0 (.op .enable)).lsie[core0] := ⟨_, rfl, by decide⟩

theorem test_witness_MappingChanges :
    (∃ t, runMove .teardown vectorState = .next t ∧ vectorState.mapped = true ∧ t.mapped = false) ∧
    (∃ t, runMove (.core core0) (unmapped (.op .init)) = .next t ∧ (unmapped (.op .init)).mapped = false ∧
      t.mapped = true) :=
  ⟨⟨_, rfl, rfl, rfl⟩, ⟨_, rfl, rfl, rfl⟩⟩

/-- A run in which Tick fires at every step. -/
def tickRun : Run where
  moves := fun _ => .tick
  states := fun n => setMtime (BitVec.ofNat 64 n) vectorState
  steps := fun n => by
    simp only [runMove, moveTick, Host.Outcome.next.injEq]
    rw [setMtime_mtime, BitVec.ofNat_add]; rfl

theorem test_witness_FairTickReaches : TickFair tickRun := fun n => ⟨n, Nat.le_refl n, rfl⟩

/-- Core 0 has faulted (program P5). -/
def faulted : State := raiseFault .unbackedIndex (some 8) vectorState

theorem test_witness_StoppedAgentStays : stopped core0 faulted = true := by decide

theorem test_witness_FaultsKept : ∃ t, step (setSchedule [.tick] faulted) = .next t ∧
    record .unbackedIndex 8 ∈ (setSchedule [.tick] faulted).faults := ⟨_, rfl, by decide⟩

theorem test_witness_CoreStepAnswers : Able core0 (about core0 (.op .enable)) ∧
    (about core0 (.op .enable)).program[core0] ≠ [] :=
  ⟨(issues_about core0 (.op .enable)).able, by decide⟩

theorem test_witness_InvKept : ∃ t, Inv tickNext ∧ step tickNext = .next t := by
  refine ⟨_, ⟨List.Pairwise.nil, List.Pairwise.nil, fun c _ => by revert c; decide, fun c => ?_⟩, rfl⟩
  have h : tickNext.position[c] = .idle := by revert c; decide
  rw [h]; trivial

end Sys2Proof.Tests
end

section
/-! SUPPORT. The proofs of the statements about the state (10_state.md), and the facts about the model they need. -/

namespace Sys2Proof.Machine

open Sys2Proof.Safety

/-! ### What a transaction leaves alone -/

theorem setReply_self_frame (r : Reply) (s : State) : TransactionFrame s (setReply s.self r s) := by
  refine ⟨rfl, rfl, rfl, rfl, rfl, rfl, rfl, rfl, rfl, rfl, fun c hc => ⟨rfl, ?_, rfl⟩⟩
  simp [Ne.symm hc]

theorem raiseFault_frame (q : Reason) (off : Option Offset) (s : State) :
    TransactionFrame s (raiseFault q off s) := by
  refine ⟨rfl, rfl, rfl, rfl, rfl, rfl, rfl, rfl, rfl, rfl, fun c hc => ⟨?_, ?_, ?_⟩⟩ <;> simp [Ne.symm hc]

/-- The frame of a transaction says nothing of the MSIP and MTIMECMP registers. -/
theorem transactionFrame_of_registers {s t : State} (msip : Vector Bool Config.numCores)
    (mtimecmp : Vector Dword Config.numCores)
    (h : TransactionFrame { s with msip := msip, mtimecmp := mtimecmp } t) : TransactionFrame s t :=
  ⟨h.mtime, h.lsie, h.mapped, h.core, h.platform, h.program, h.self, h.schedule, h.draws, h.history, h.others⟩

/-- Whatever a decoded transaction does, it keeps the frame (R112). -/
theorem exec_frame {i : Instr} {s t : State} (h : exec i s = .next t) : TransactionFrame s t := by
  have ho := exec_cases i s
  rw [h] at ho
  rcases ho with ⟨r, ho⟩ | ⟨c, b, ho⟩ | ⟨c, v, ho⟩ | ⟨q, off, ho⟩ <;> cases ho
  · exact setReply_self_frame r s
  · exact transactionFrame_of_registers _ _ (setReply_self_frame .done (setMsip c b s))
  · exact transactionFrame_of_registers _ _ (setReply_self_frame .done (setMtimecmp c v s))
  · exact raiseFault_frame q (some off) s

/-- A transaction keeps the records and the positions, or it raises a fault of `self`. -/
theorem exec_records {i : Instr} {s t : State} (h : exec i s = .next t) :
    (t.faults = s.faults ∧ t.position = s.position) ∨ ∃ q off, t = raiseFault q off s := by
  have ho := exec_cases i s
  rw [h] at ho
  rcases ho with ⟨r, ho⟩ | ⟨c, b, ho⟩ | ⟨c, v, ho⟩ | ⟨q, off, ho⟩ <;> cases ho
  · exact .inl ⟨rfl, rfl⟩
  · exact .inl ⟨rfl, rfl⟩
  · exact .inl ⟨rfl, rfl⟩
  · exact .inr ⟨q, some off, rfl⟩

/-! ### What a core's access leaves alone -/

/-- What the access in a core's step leaves alone, whether it faults or not. -/
structure AccessFrame (u t : State) : Prop where
  self : t.self = u.self
  mtime : t.mtime = u.mtime
  lsie : t.lsie = u.lsie
  mapped : t.mapped = u.mapped
  others : ∀ d : CoreId, d ≠ u.self → t.position[d] = u.position[d]

/-- An access keeps its frame: what a transaction or a fault keeps, its conclusion keeps too. -/
theorem Access.frame {u t : State} (h : Access u t) : AccessFrame u t := by
  cases h with
  | nothing h => exact ⟨h.self, h.mtime, h.lsie, h.mapped, fun d hd => (h.others d hd).1⟩
  | boundary q off h =>
    have hf := raiseFault_frame q off u
    exact h ▸ ⟨hf.self, hf.mtime, hf.lsie, hf.mapped, fun d hd => (hf.others d hd).1⟩
  | transaction r v h h' _ =>
    have hf := exec_frame (transact_eq_next.1 h).2
    refine ⟨h'.self.trans hf.self, h'.mtime.trans hf.mtime, h'.lsie.trans hf.lsie, h'.mapped.trans hf.mapped,
      fun d hd => ?_⟩
    exact ((h'.others d (hf.self ▸ hd)).1).trans (hf.others d hd).1

/-- An access raises no fault, or one of the issuer, whose host operation it ends (R180). -/
theorem Access.faults_cases {u t : State} (h : Access u t) :
    t.faults = u.faults ∨
      ∃ q off, t.faults = insertRecord ⟨u.self, q, off⟩ u.faults ∧ t.position[u.self] = .idle := by
  cases h with
  | nothing h => exact .inl h.faults
  | boundary q off h => exact .inr ⟨q, off, by simp [h], by simp [h]⟩
  | transaction r v h h' hf =>
    rcases exec_records (transact_eq_next.1 h).2 with ⟨hk, -⟩ | ⟨q, off, rfl⟩
    · exact .inl (h'.faults.trans hk)
    · obtain rfl := hf (by simp)
      exact .inr ⟨q, off, by simp, by simp⟩

/-! ### The records after a move -/

/-- A step of core `c` keeps the records, or adds one of `c`, whose host operation has ended (R180). -/
theorem moveCore_faults {c : CoreId} {s t : State} (h : runMove (.core c) s = .next t) :
    t.faults = s.faults ∨
      ∃ q off, t.faults = insertRecord ⟨c, q, off⟩ s.faults ∧ t.position[c] = .idle := by
  obtain ⟨-, u, hu, ha, -⟩ := moveCore_shape h
  obtain rfl := hu.self
  exact hu.faults ▸ ha.faults_cases

/-- A step of core `c` moves no other core inside its operation. -/
theorem moveCore_position_others {c d : CoreId} {s t : State} (h : runMove (.core c) s = .next t) (hd : d ≠ c) :
    t.position[d] = s.position[d] := by
  obtain ⟨-, u, hu, ha, -⟩ := moveCore_shape h
  exact (ha.frame.others d (hu.self ▸ hd)).trans (by rw [hu.position])

/-- A move is a step of a core's program, or it is none. -/
theorem core_or_other (m : Move) : (∃ c, m = .core c) ∨ ∀ c, m ≠ .core c := by
  by_cases h : ∃ c, m = .core c
  · exact .inl h
  · exact .inr fun c hc => h ⟨c, hc⟩

/-- A move that is no core's step keeps the records and the positions. -/
theorem runMove_other_bookkeeping {m : Move} {s t : State} (hm : ∀ c, m ≠ .core c) (h : runMove m s = .next t) :
    t.faults = s.faults ∧ t.position = s.position := by
  rcases runMove_other hm h with ⟨-, rfl⟩ | ⟨-, rfl⟩ | ⟨c, r, -, rfl⟩ | ⟨c, q, -, rfl⟩ | ⟨c, k, -, rfl⟩ <;>
    exact ⟨rfl, rfl⟩

/-- Every step is a move from a state with the same bookkeeping. -/
theorem step_eq_next {s t : State} (h : step s = .next t) :
    ∃ m s', runMove m s' = .next t ∧ s'.faults = s.faults ∧ s'.position = s.position := by
  refine ⟨(nextMove s).1, (nextMove s).2, h, ?_⟩
  rcases nextMove_cases s with ⟨rest, hs⟩ | hs <;> rw [hs] <;> exact ⟨rfl, rfl⟩

/-! ### The positions after a core's step -/

/-- The position of `self` names backed indices only. -/
def SelfBacked (s : State) : Prop := PositionBacked s.position[s.self]

theorem selfBacked_finish (r : Reply) (s : State) : SelfBacked (finish r s) := by
  simp [SelfBacked, PositionBacked]

theorem selfBacked_raiseFault (q : Reason) (off : Option Offset) (s : State) : SelfBacked (raiseFault q off s) := by
  simp [SelfBacked, PositionBacked]

theorem selfBacked_setPosition {p : Position} (hp : PositionBacked p) (s : State) :
    SelfBacked (setPosition s.self p s) := by
  simpa [SelfBacked] using hp

/-- A next state of the outcome, if there is one, has a position of `self` that names backed indices only. -/
def AnswersBacked (o : Host.Outcome State Fault Refusal) : Prop := ∀ t, o = .next t → SelfBacked t

theorem answersBacked_next {s : State} (h : SelfBacked s) : AnswersBacked (.next s) := by
  rintro t ⟨⟩; exact h

theorem answersBacked_finish (r : Reply) (s : State) : AnswersBacked (.next (finish r s)) :=
  answersBacked_next (selfBacked_finish r s)

theorem answersBacked_raiseFault (q : Reason) (off : Option Offset) (s : State) :
    AnswersBacked (.next (raiseFault q off s)) := answersBacked_next (selfBacked_raiseFault q off s)

theorem answersBacked_transact {u : State} (hu : SelfBacked u) (r : BusReq) : AnswersBacked (transact r u) := by
  intro v h
  have he := (transact_eq_next.1 h).2
  rcases exec_records he with ⟨-, hp⟩ | ⟨q, off, rfl⟩
  · simpa [SelfBacked, hp, (exec_frame he).self] using hu
  · exact selfBacked_raiseFault q off _

/-- A step with a transaction answers backed: a fault ends the operation, and otherwise `f` goes on. -/
theorem answersBacked_afterAccess {u : State} {f : State → State} (hu : SelfBacked u) (hf : ∀ v, SelfBacked (f v))
    (r : BusReq) : AnswersBacked (afterAccess (transact r u) f) := by
  intro t h
  obtain ⟨v, hv, rfl⟩ := afterAccess_eq_next.1 h
  split
  · exact answersBacked_transact hu r v hv
  · exact hf v

/-- The step of a host operation after its range check: a transaction where the window is mapped. -/
theorem answersBacked_ifMapped {u x : State} {f : State → State} {r : BusReq} (hu : SelfBacked u)
    (hf : ∀ v, SelfBacked (f v)) (hx : SelfBacked x) :
    AnswersBacked (if u.mapped then afterAccess (transact r u) f else .next x) := by
  split
  · exact answersBacked_afterAccess hu hf r
  · exact answersBacked_next hx

theorem answersBacked_opInitClear {todo : List Nat} {u : State} (hu : SelfBacked u)
    (hs : todo.Pairwise (· < ·)) (hb : ∀ i ∈ todo, i < Config.numCores) : AnswersBacked (opInitClear todo u) := by
  cases todo with
  | nil => exact answersBacked_finish _ _
  | cons i more =>
    refine answersBacked_ifMapped hu (fun v => ?_) (selfBacked_finish _ _)
    split
    · exact selfBacked_finish _ _
    next hm =>
      have hp : PositionBacked (.initClear more) :=
        ⟨by simpa using hm, hs.of_cons, fun j hj => hb j (List.mem_cons_of_mem i hj)⟩
      exact selfBacked_setPosition hp v

theorem answersBacked_opInit {u : State} (hu : SelfBacked u) : AnswersBacked (opInit u) := by
  rw [opInit]
  split
  · exact answersBacked_finish _ _
  split
  · exact answersBacked_opInitClear (u := addDraws Config.numCores u) hu (List.pairwise_lt_range.filter _)
      fun i hi => List.mem_range.1 (List.mem_of_mem_filter hi)
  split
  · exact answersBacked_opInitClear (u := setMapped true u) hu List.pairwise_lt_range
      fun i hi => List.mem_range.1 hi
  · exact answersBacked_finish _ _

/-- The first step of a host operation; `clear` keeps an index that it has found backed (R158). -/
theorem answersBacked_startOp {u : State} (hu : SelfBacked u) (o : HostOp) : AnswersBacked (startOp o u) := by
  cases o with
  | init => exact answersBacked_opInit hu
  | enable => rw [startOp, opEnable]; split <;> exact answersBacked_finish _ _
  | disable => rw [startOp, opDisable]; split <;> exact answersBacked_finish _ _
  | readMsip i =>
    rw [startOp, opReadMsip]
    split
    · exact answersBacked_raiseFault _ _ _
    · exact answersBacked_ifMapped hu (fun v => selfBacked_finish _ v) (selfBacked_raiseFault _ _ _)
  | writeMsip i b =>
    rw [startOp, opWriteMsip]
    split
    · exact answersBacked_raiseFault _ _ _
    · exact answersBacked_ifMapped hu (selfBacked_finish _) (selfBacked_raiseFault _ _ _)
  | send i =>
    rw [startOp, opSend]
    split
    · exact answersBacked_finish _ _
    · exact answersBacked_ifMapped hu (selfBacked_finish _) (selfBacked_finish _ _)
  | clear i =>
    rw [startOp, opClear]
    split
    · exact answersBacked_finish _ _
    next hi =>
      exact answersBacked_ifMapped hu (fun v => selfBacked_setPosition (p := .clearWrite i _) (Nat.lt_of_not_le hi) v)
        (selfBacked_finish _ _)

theorem answersBacked_outsideWindow {u : State} (hu : SelfBacked u) : AnswersBacked (outsideWindow u) :=
  answersBacked_next hu

theorem answersBacked_boundaryFault {u : State} (hu : SelfBacked u) (q : Reason) (a : Nat) :
    AnswersBacked (boundaryFault q a u) := by
  rw [boundaryFault]
  split
  · exact answersBacked_outsideWindow hu
  split
  · exact answersBacked_raiseFault _ _ _
  · rintro t ⟨⟩

theorem answersBacked_issue {u : State} (hu : SelfBacked u) (q : Request) : AnswersBacked (issue q u) := by
  cases q with
  | bus r => exact answersBacked_transact hu r
  | op o => exact answersBacked_startOp hu o
  | atomic a => exact answersBacked_boundaryFault hu _ a
  | fetch a => exact answersBacked_boundaryFault hu _ a
  | mem w sz a d =>
    rw [issue, memAccess]
    split
    · exact answersBacked_outsideWindow hu
    · exact answersBacked_transact hu _

/-- A step of core `c` leaves its position backed: `init` goes on with the rest of its list, `clear` ends. -/
theorem moveCore_positionBacked {c : CoreId} {s t : State} (hp : PositionBacked s.position[c])
    (h : runMove (.core c) s = .next t) : PositionBacked t.position[c] := by
  have hself : t.self = c := by
    obtain ⟨-, u, hu, ha, -⟩ := moveCore_shape h
    exact ha.frame.self.trans hu.self
  have hc : SelfBacked (setSelf c s) := hp
  have ht : SelfBacked t := by
    obtain ⟨-, -, ⟨todo, hi, h⟩ | ⟨i, b, -, h⟩ | ⟨q, rest, -, -, h⟩⟩ := moveCore_eq_next h
    · rw [hi] at hp
      obtain ⟨-, hs, hb⟩ := hp
      exact answersBacked_opInitClear hc hs hb t h
    · exact answersBacked_ifMapped hc (selfBacked_finish _) (selfBacked_finish _ _) t h
    · exact answersBacked_issue (u := setProgram c rest (setSelf c s)) hp q t h
  subst hself
  exact ht

/-! ### The invariant of the bookkeeping -/

/-- A record of an agent that has none keeps each agent at one record at most. -/
theorem insertRecord_once {r : FaultRecord} {l : List FaultRecord} (hr : ∀ x ∈ l, x.agent ≠ r.agent)
    (h : l.Pairwise fun a b => a.agent ≠ b.agent) : (insertRecord r l).Pairwise fun a b => a.agent ≠ b.agent := by
  induction l with
  | nil => simp [insertRecord]
  | cons y ys ih =>
    obtain ⟨hy, hys⟩ := List.pairwise_cons.1 h
    obtain ⟨hry, hrys⟩ := List.forall_mem_cons.1 hr
    rw [insertRecord]
    split
    · exact List.pairwise_cons.2 ⟨fun x hx => (hr x hx).symm, h⟩
    split
    · exact h
    · refine List.pairwise_cons.2 ⟨fun x hx => ?_, ih hrys hys⟩
      rcases mem_insertRecord.1 hx with rfl | hx
      · exact hry
      · exact hy x hx

theorem stopped_congr {s t : State} (h : t.faults = s.faults) (c : CoreId) : stopped c t = stopped c s := by
  rw [stopped, stopped, h]

/-- The invariant speaks of the records and the positions alone. -/
theorem inv_of_same {s t : State} (hi : Inv s) (hf : t.faults = s.faults) (hp : t.position = s.position) : Inv t where
  sorted := hf ▸ hi.sorted
  once := hf ▸ hi.once
  idle c hc := by simpa [hp] using hi.idle c (stopped_congr hf c ▸ hc)
  positions c := by simpa [hp] using hi.positions c

/-- Every move keeps the invariant: only a core's step changes the bookkeeping, and only a running core's. -/
theorem runMove_inv {m : Move} {s t : State} (hi : Inv s) (h : runMove m s = .next t) : Inv t := by
  obtain ⟨c, rfl⟩ | hm := core_or_other m
  case inr =>
    obtain ⟨hf, hp⟩ := runMove_other_bookkeeping hm h
    exact inv_of_same hi hf hp
  have hrun : stopped c s = false := (moveCore_shape h).1
  have hpos : ∀ d : CoreId, PositionBacked t.position[d] := fun d => by
    by_cases hd : d = c
    · exact hd ▸ moveCore_positionBacked (hi.positions c) h
    · exact moveCore_position_others h hd ▸ hi.positions d
  rcases moveCore_faults h with hf | ⟨q, off, hf, hidle⟩
  · refine ⟨hf ▸ hi.sorted, hf ▸ hi.once, fun d hd => ?_, hpos⟩
    rw [stopped_congr hf] at hd
    have hdc : d ≠ c := by rintro rfl; simp [hrun] at hd
    exact (moveCore_position_others h hdc).trans (hi.idle d hd)
  · have hnone : ∀ x ∈ s.faults, x.agent ≠ c := by simpa [stopped] using hrun
    refine ⟨hf ▸ insertRecord_sorted hi.sorted, hf ▸ insertRecord_once hnone hi.once, fun d hd => ?_, hpos⟩
    by_cases hdc : d = c
    · exact hdc ▸ hidle
    · have hds : stopped d s = true := by
        rw [stopped_iff] at hd ⊢
        simpa [hf, Ne.symm hdc] using hd
      exact (moveCore_position_others h hdc).trans (hi.idle d hds)

/-- A move keeps the records, or adds one. -/
theorem runMove_faults {m : Move} {s t : State} (h : runMove m s = .next t) :
    t.faults = s.faults ∨ ∃ r, t.faults = insertRecord r s.faults := by
  obtain ⟨c, rfl⟩ | hm := core_or_other m
  · exact (moveCore_faults h).imp_right fun ⟨q, off, hf, _⟩ => ⟨⟨c, q, off⟩, hf⟩
  · exact .inl (runMove_other_bookkeeping hm h).1

/-- Settles O57: a step is a move, and every move keeps the invariant. -/
theorem invKept : Obligations.InvKept := by
  intro s t hi h
  obtain ⟨m, s', hm, hf, hp⟩ := step_eq_next h
  exact runMove_inv (inv_of_same hi hf hp) hm

/-- Settles O55: a core's step adds the record of its fault at most, and no other move touches the records. -/
theorem faultsKept : Obligations.FaultsKept := by
  intro s t h
  obtain ⟨m, s', hm, hs, -⟩ := step_eq_next h
  rcases runMove_faults hm with hf | ⟨r, hf⟩ <;> rw [hs] at hf <;> rw [hf]
  · exact ⟨fun r hr => hr, ⟨core0, .fetch, none⟩, fun x hx => .inl hx⟩
  · exact ⟨fun x hx => mem_insertRecord.2 (.inr hx), r, fun x hx => (mem_insertRecord.1 hx).symm⟩

/-! ### Which moves change which register -/

/-- Settles O21: a transaction always answers, and it keeps the frame. -/
theorem transactionFrames : Obligations.TransactionFrames := by
  intro i s
  obtain ⟨t, h⟩ := exec_next i s
  exact ⟨t, h, exec_frame h⟩

/-- A step of a core does not change MTIME. -/
theorem moveCore_mtime {c : CoreId} {s t : State} (h : runMove (.core c) s = .next t) : t.mtime = s.mtime := by
  obtain ⟨-, u, hu, ha, -⟩ := moveCore_shape h
  exact ha.frame.mtime.trans hu.mtime

/-- A step of core `c` keeps LSIE and `mapped`, or it issues a request that prepares the change. -/
theorem moveCore_lsie_mapped {c : CoreId} {s t : State} (h : runMove (.core c) s = .next t) :
    (t.lsie = s.lsie ∧ t.mapped = s.mapped) ∨
      (s.position[c] = .idle ∧ ∃ q rest, s.program[c] = q :: rest ∧ Prepares c q s t) := by
  obtain ⟨-, u, -, ha, hk⟩ := moveCore_shape h
  have hf := ha.frame
  refine hk.imp (fun ⟨hl, hm⟩ => ⟨hf.lsie.trans hl, hf.mapped.trans hm⟩) fun ⟨hp, q, rest, hq, hpr⟩ => ?_
  exact ⟨hp, q, rest, hq, ⟨by simpa only [hf.lsie] using hpr.lsie, by simpa only [hf.mapped] using hpr.mapped⟩⟩

/-- Settles O50: `Tick` always fires; no core's step and no other move writes MTIME. -/
theorem onlyTickCounts : Obligations.OnlyTickCounts := by
  refine ⟨fun s => ⟨_, rfl, ?_, rfl, rfl, rfl, rfl, rfl⟩, fun m s t hm h => ?_⟩
  · simp [BitVec.toNat_add]
  obtain ⟨c, rfl⟩ | ho := core_or_other m
  · exact moveCore_mtime h
  rcases runMove_other ho h with
    ⟨rfl, -⟩ | ⟨-, rfl⟩ | ⟨c, r, -, rfl⟩ | ⟨c, q, -, rfl⟩ | ⟨c, k, -, rfl⟩
  · exact absurd rfl hm
  all_goals rfl

/-- Settles O51: only a core's step writes LSIE, of that core, where it issues an `enable` or a `disable`. -/
theorem onlyOwnEnable : Obligations.OnlyOwnEnable := by
  intro m s t c h hne
  obtain ⟨d, rfl⟩ | hm := core_or_other m
  case inr =>
    have hl : t.lsie = s.lsie := by
      rcases runMove_other hm h with
        ⟨-, rfl⟩ | ⟨-, rfl⟩ | ⟨d, r, -, rfl⟩ | ⟨d, q, -, rfl⟩ | ⟨d, k, -, rfl⟩ <;> rfl
    exact absurd (by rw [hl]) hne
  rcases moveCore_lsie_mapped h with ⟨hl, -⟩ | ⟨hp, q, rest, hq, hl | ⟨hop, ho⟩, -⟩
  · exact absurd (by rw [hl]) hne
  · exact absurd (by rw [hl]) hne
  · have hcd : c = d := by_contra fun hcd => hne (ho c hcd)
    subst hcd
    rcases hop with rfl | rfl
    · exact ⟨rfl, hp, rest, .inl hq⟩
    · exact ⟨rfl, hp, rest, .inr hq⟩

/-- Settles O52: `mapped` is cleared by the teardown, and set where a core issues `init`. -/
theorem mappingChanges : Obligations.MappingChanges := by
  refine ⟨fun s => ⟨_, rfl, rfl, rfl, rfl, rfl, rfl, rfl, rfl, rfl, rfl, rfl, rfl, rfl⟩, fun m s t h => ?_⟩
  obtain ⟨c, rfl⟩ | hm := core_or_other m
  case inr =>
    rcases runMove_other hm h with
      ⟨-, rfl⟩ | ⟨rfl, rfl⟩ | ⟨c, r, -, rfl⟩ | ⟨c, q, -, rfl⟩ | ⟨c, k, -, rfl⟩ <;> simp_all
  rcases moveCore_lsie_mapped h with ⟨-, hk⟩ | ⟨hp, q, rest, hq, -, hk | ⟨rfl, hav, ht⟩⟩
  · simp_all
  · simp_all
  · exact ⟨fun _ hf => by simp [ht] at hf, fun _ _ => ⟨c, rest, rfl, hp, hq, hav⟩⟩

/-! ### MSIP as it is read -/

/-- The word of an MSIP register is its stored bit, zero-extended (R22). -/
theorem msipWord_eq_ite (c : CoreId) (s : State) : msipWord c s = if s.msip[c] = true then 1#32 else 0#32 := by
  rw [msipWord]
  cases s.msip[c] <;> rfl

/-- Settles O25: the read answers the zero-extended bit, before the write and after it. -/
theorem msipReadsBackBit0 : Obligations.MsipReadsBackBit0 := by
  intro idx v s c hc
  refine ⟨⟨_, exec_msipRd_backed hc s, ?_⟩, _, _, exec_msipWr_backed hc v s, ?_, exec_msipRd_backed hc _, ?_⟩
  · simp [msipWord_eq_ite]
  · simp
  · simp [msipWord_eq_ite]

/-! ### The layout of the window, and the offsets of the registers -/

theorem regionHolds_eq (off b n : Nat) (k : RegionKind) :
    regionHolds off ⟨k, b, n⟩ = decide (b ≤ off ∧ off < b + n) := by
  simp [regionHolds]

/-- The region of an offset, by the bounds of R51 to R56. -/
theorem regionOf_eq (off : Nat) : regionOf off =
    if off < 0x3FFC then some .msip else if off < 0x4000 then some .padding
    else if off < 0xBFF8 then some .mtimecmp else if off < 0xC000 then some .mtime
    else if off < 0xF000 then some .reserved else none := by
  simp only [regionOf, layout, List.find?_cons, regionHolds_eq]
  grind

/-- The value of two words written side by side. -/
theorem toNat_append_eq {m n : Nat} (x : BitVec m) (y : BitVec n) :
    (x ++ y).toNat = x.toNat * 2 ^ n + y.toNat := by
  rw [BitVec.toNat_append, ← Nat.shiftLeft_add_eq_or_of_lt y.isLt, Nat.shiftLeft_eq]

/-- MSIP register `idx` stands at `4 * idx` (R51). -/
theorem msipOffset_toNat (idx : BitVec 12) : (msipOffset idx).toNat = 4 * idx.toNat :=
  calc (msipOffset idx).toNat = (0#2 ++ idx).toNat * 4 + 0 := toNat_append_eq _ _
    _ = 4 * idx.toNat := by rw [toNat_append_eq, BitVec.toNat_ofNat]; omega

/-- MTIMECMP register `{0, t}` stands at `0x4000 + 8 * t` (R53). -/
theorem timerLoOffset_toNat (t : BitVec 11) : (timerLoOffset t).toNat = 0x4000 + 8 * t.toNat :=
  calc (timerLoOffset t).toNat = (1#2 ++ t).toNat * 8 + 0 := toNat_append_eq _ _
    _ = 0x4000 + 8 * t.toNat := by rw [toNat_append_eq, BitVec.toNat_ofNat]; omega

theorem timerIndexLo_toNat (t : BitVec 11) : (timerIndexLo t).toNat = t.toNat :=
  (toNat_append_eq 0#1 t).trans (by simp)

theorem timerIndexHi_toNat (t : BitVec 11) : (timerIndexHi t).toNat = 2048 + t.toNat :=
  (toNat_append_eq 1#1 t).trans (by simp)

/-- No index `{1, t}` is backed (R103, R105). -/
theorem backed_timerIndexHi (t : BitVec 11) : backed (timerIndexHi t).toNat = none := by
  rw [backed_eq_none, timerIndexHi_toNat, Config.numCores]
  omega

/-! ### The bytes of the window -/

/-- A byte of the MSIP array (R51). -/
theorem windowByte_msip {off : Nat} (h : off < 0x3FFC) (s : State) :
    windowByte off s = (backed (off / 4)).map fun c => byteOf (msipWord c s) (off % 4) := by
  rw [windowByte, regionOf_eq, if_pos h]

/-- A byte of the MTIMECMP array (R53). -/
theorem windowByte_mtimecmp {off : Nat} (h : 0x4000 ≤ off) (h' : off < 0xBFF8) (s : State) :
    windowByte off s = (backed ((off - 0x4000) / 8)).map fun c => byteOf s.mtimecmp[c] (off % 8) := by
  rw [windowByte, regionOf_eq, if_neg (by omega), if_neg (by omega), if_pos h']

/-- A byte of MTIME (R54). -/
theorem windowByte_mtime {off : Nat} (h : 0xBFF8 ≤ off) (h' : off < 0xC000) (s : State) :
    windowByte off s = some (byteOf s.mtime (off % 8)) := by
  rw [windowByte, regionOf_eq, if_neg (by omega), if_neg (by omega), if_neg (by omega), if_pos h']

/-- The padding holds no state (R34, R52). -/
theorem windowByte_padding {off : Nat} (h : 0x3FFC ≤ off) (h' : off < 0x4000) (s : State) :
    windowByte off s = none := by
  rw [windowByte, regionOf_eq, if_neg (by omega), if_pos h']

/-- Nothing above MTIME holds state (R34, R55). -/
theorem windowByte_above {off : Nat} (h : 0xC000 ≤ off) (s : State) : windowByte off s = none := by
  rw [windowByte, regionOf_eq, if_neg (by omega), if_neg (by omega), if_neg (by omega), if_neg (by omega)]
  by_cases hr : off < 0xF000
  · rw [if_pos hr]
  · rw [if_neg hr]

theorem backed_isSome {i : Nat} : (backed i).isSome = true ↔ i < Config.numCores := by
  by_cases h : i < Config.numCores <;> simp [backed, h]

/-- A byte of the word of an MSIP register: bit 0 stands in the first (R22, R59). -/
theorem byteOf_msipWord {k : Nat} (hk : k < 4) (c : CoreId) (s : State) :
    byteOf (msipWord c s) k = if k = 0 ∧ s.msip[c] = true then 1#8 else 0#8 := by
  rw [msipWord_eq_ite]
  cases s.msip[c] <;> interval_cases k <;> rfl

/-- The bytes that hold state: those of the backed registers and of MTIME (R35). -/
theorem windowByte_isSome (off : Nat) (s : State) : (windowByte off s).isSome = true ↔
    off < 4 * Config.numCores ∨ (0x4000 ≤ off ∧ off < 0x4000 + 8 * Config.numCores) ∨
      (0xBFF8 ≤ off ∧ off < 0xC000) := by
  simp only [Config.numCores]
  rcases Nat.lt_or_ge off 0x3FFC with h1 | h1
  · simp only [windowByte_msip h1, Option.isSome_map, backed_isSome, Config.numCores]; omega
  rcases Nat.lt_or_ge off 0x4000 with h2 | h2
  · simp only [windowByte_padding h1 h2, Option.isSome_none, Bool.false_eq_true, false_iff]; omega
  rcases Nat.lt_or_ge off 0xBFF8 with h3 | h3
  · simp only [windowByte_mtimecmp h2 h3, Option.isSome_map, backed_isSome, Config.numCores]
    omega
  rcases Nat.lt_or_ge off 0xC000 with h4 | h4
  · simp [windowByte_mtime h3 h4, h3, h4]
  · simp only [windowByte_above h4, Option.isSome_none, Bool.false_eq_true, false_iff]; omega

/-- Settles O7: each byte falls in the register of its region and index. -/
theorem windowBytes : Obligations.WindowBytes := by
  intro s off
  have hcore (c : CoreId) : c.val < 2 := c.isLt
  refine ⟨windowByte_isSome off s, fun c k hk ho => ?_, fun c k hk ho => ?_, fun k hk ho => ?_⟩
  · have := hcore c
    rw [windowByte_msip (by omega), show off / 4 = c.val by omega, show off % 4 = k by omega, backed_val,
      Option.map_some, byteOf_msipWord hk]
  · have := hcore c
    rw [windowByte_mtimecmp (by omega) (by omega), show (off - 0x4000) / 8 = c.val by omega,
      show off % 8 = k by omega, backed_val, Option.map_some, byteOf]
  · rw [windowByte_mtime (by omega) (by omega), show off % 8 = k by omega, byteOf]

/-! ### What a transaction leaves of the window -/

/-- The window is a view of the registers alone. -/
theorem windowByte_congr {s t : State} (hm : t.msip = s.msip) (hc : t.mtimecmp = s.mtimecmp)
    (ht : t.mtime = s.mtime) (off : Nat) : windowByte off t = windowByte off s := by
  have hw (c : CoreId) : msipWord c t = msipWord c s := by rw [msipWord, msipWord, hm]
  simp only [windowByte, hw, hc, ht]

/-- A write of `MSIP[c]` keeps every byte outside the four of the register (R51). -/
theorem windowByte_setMsip {c : CoreId} {off : Nat} (h : off < 4 * c.val ∨ 4 * c.val + 4 ≤ off) (b : Bool)
    (s : State) : windowByte off (setMsip c b s) = windowByte off s := by
  have hw : ∀ d, backed (off / 4) = some d → msipWord d (setMsip c b s) = msipWord d s := by
    intro d hd
    have hne : c ≠ d := by
      rintro rfl
      have := backed_eq_some.1 hd
      omega
    simp [msipWord, hne]
  rw [windowByte, windowByte]
  split
  · exact Option.map_congr fun d hd => by rw [hw d hd]
  all_goals rfl

/-- The offsets of the MTIMECMP array (R53). -/
theorem regionOf_eq_mtimecmp {off : Nat} (h : regionOf off = some .mtimecmp) : 0x4000 ≤ off ∧ off < 0xBFF8 := by
  rw [regionOf_eq] at h
  grind

/-- A write of `MTIMECMP[c]` keeps every byte outside the eight of the register (R53). -/
theorem windowByte_setMtimecmp {c : CoreId} {off : Nat}
    (h : off < 0x4000 + 8 * c.val ∨ 0x4000 + 8 * c.val + 8 ≤ off) (v : Dword)
    (s : State) : windowByte off (setMtimecmp c v s) = windowByte off s := by
  rw [windowByte, windowByte]
  split
  case h_2 hr =>
    refine Option.map_congr fun d hd => ?_
    have hne : c ≠ d := by
      rintro rfl
      have := backed_eq_some.1 hd
      have := regionOf_eq_mtimecmp hr
      omega
    simp [hne]
  all_goals rfl

theorem readMtimecmp_registers (i : BitVec 12) (off : Offset) (s : State) :
    (readMtimecmp i off s).msip = s.msip ∧ (readMtimecmp i off s).mtimecmp = s.mtimecmp := by
  rw [readMtimecmp]
  split <;> exact ⟨rfl, rfl⟩

/-- A row that stores nothing keeps every register. -/
theorem exec_registers_of_no_store {i : Instr} {s t : State} (hi : storeRange i = none) (h : exec i s = .next t) :
    t.msip = s.msip ∧ t.mtimecmp = s.mtimecmp := by
  cases i with
  | msipWr idx v => cases hi
  | mtimecmpWrLo i v => cases hi
  | mtimecmpWrHi i v => cases hi
  | mtimecmpRdLo i => cases h; exact readMtimecmp_registers _ _ s
  | mtimecmpRdHi i => cases h; exact readMtimecmp_registers _ _ s
  | msipRd idx =>
    simp only [exec, execMsipRd] at h
    split at h <;> cases h <;> exact ⟨rfl, rfl⟩
  | padAccess | outside | rsvAccess | mtimeRd | mtimeWr | badAccess => cases h; exact ⟨rfl, rfl⟩

/-- A fault or an answer leaves every byte of the window. -/
theorem windowByte_raiseFault (off : Nat) (q : Reason) (a : Option Offset) (s : State) :
    windowByte off (raiseFault q a s) = windowByte off s := windowByte_congr rfl rfl rfl off

theorem windowByte_setReply (off : Nat) (c : CoreId) (r : Reply) (s : State) :
    windowByte off (setReply c r s) = windowByte off s := windowByte_congr rfl rfl rfl off

/-- Settles O23: a row that stores nothing keeps the registers, and one that stores to a backed register keeps the
bytes outside it; an unbacked index faults. -/
theorem byteFrame : Obligations.ByteFrame := by
  intro i s t off h hout
  cases hi : storeRange i with
  | none =>
    obtain ⟨hm, hc⟩ := exec_registers_of_no_store hi h
    exact windowByte_congr hm hc (exec_frame h).mtime off
  | some p =>
    cases i with
    | msipWr idx v =>
      have ho := hout _ _ rfl
      rw [msipOffset_toNat] at ho
      simp only [exec, execMsipWr] at h
      split at h <;> cases h
      · exact windowByte_raiseFault off _ _ s
      next c hc =>
        rw [backed_eq_some] at hc
        rw [windowByte_setReply, windowByte_setMsip (hc ▸ ho)]
    | mtimecmpWrLo i v =>
      have ho := hout _ _ rfl
      rw [timerLoOffset_toNat] at ho
      simp only [exec, execMtimecmpWrLo, writeMtimecmp] at h
      split at h <;> cases h
      · exact windowByte_raiseFault off _ _ s
      next c hc =>
        rw [backed_eq_some, timerIndexLo_toNat] at hc
        rw [windowByte_setReply, windowByte_setMtimecmp (hc ▸ ho)]
    | mtimecmpWrHi i v =>
      simp only [exec, execMtimecmpWrHi, writeMtimecmp, backed_timerIndexHi] at h
      cases h
      exact windowByte_raiseFault off _ _ s
    | padAccess | outside | rsvAccess | mtimeRd | mtimeWr | msipRd | mtimecmpRdLo | mtimecmpRdHi | badAccess =>
      cases hi

/-! ### The steps of the host operations on a backed register -/

/-- A core that issues a request begins it. -/
theorem runMove_of_issues {c : CoreId} {q : Request} {rest : List Request} {s : State} (h : Issues c q rest s) :
    runMove (.core c) s = issue q (begun c rest s) := by
  rw [moveCore_advance h.able.running h.able.awake, advance_idle h.idle h.program, begun]

@[simp] theorem begun_mapped (c : CoreId) (rest : List Request) (s : State) :
    (begun c rest s).mapped = s.mapped := rfl

/-- Whether a core can step is seen in the records and the cores' own state alone. -/
theorem able_of_same {c : CoreId} {s t : State} (h : Able c s) (hf : t.faults = s.faults) (hc : t.core = s.core) :
    Able c t where
  running := (stopped_congr hf c).trans h.running
  awake := by simpa only [hc] using h.awake
  mode := by simpa only [hc] using h.mode

theorem not_numCores_le (d : CoreId) : ¬Config.numCores ≤ d.val := Nat.not_le.2 d.isLt

/-- `send(d)` to a backed core, with the window mapped (R156, R157). -/
theorem runMove_send {c d : CoreId} {rest : List Request} {s : State} (h : Issues c (.op (.send d.val)) rest s)
    (hm : s.mapped = true) : runMove (.core c) s = .next (finish (.send .ok) (setReply c .done
      (setMsip d true (logTransaction (wr32 (msipAt d.val) 1#32) (begun c rest s))))) := by
  rw [runMove_of_issues h, issue, startOp, opSend, if_neg (not_numCores_le d), begun_mapped,
    if_pos hm, afterWrite_backed (s := begun c rest s) h.able.mode h.able.running]
  rfl

/-- `clear(d)` of a backed core, step 1, with the window mapped (R158). -/
theorem runMove_clear {c d : CoreId} {rest : List Request} {s : State} (h : Issues c (.op (.clear d.val)) rest s)
    (hm : s.mapped = true) : runMove (.core c) s = .next (setPosition c (.clearWrite d.val s.msip[d])
      (setReply c (.data32 (msipWord d s)) (logTransaction (rd32 (msipAt d.val)) (begun c rest s)))) := by
  have hbit : ∀ u : State, repliedBit (setReply u.self (.data32 (msipWord d s)) u) = s.msip[d] := by
    simp [repliedBit]
  rw [runMove_of_issues h, issue, startOp, opClear, if_neg (not_numCores_le d), begun_mapped,
    if_pos hm, afterRead_backed (s := begun c rest s) h.able.mode h.able.running, ← hbit]
  rfl

/-- `clear(d)`, step 2, with the window mapped (R158, R159). -/
theorem runMove_clearWrite {c d : CoreId} {b : Bool} {s : State} (h : Able c s)
    (hp : s.position[c] = .clearWrite d.val b) (hm : s.mapped = true) :
    runMove (.core c) s = .next (finish (.clear (clearResult b)) (setReply c .done
      (setMsip d false (logTransaction (wr32 (msipAt d.val) 0#32) (setSelf c s))))) := by
  rw [moveCore_advance h.running h.awake, advance_clearWrite hp, opClearWrite, setSelf_mapped, if_pos hm,
    afterWrite_backed (s := setSelf c s) h.mode h.running]
  rfl

/-- Both steps of `clear(d)` in a row: the bit is 0 afterwards, and the result tells what it was (R160). -/
theorem runMove_clear_both {c d : CoreId} {rest : List Request} {s : State}
    (h : Issues c (.op (.clear d.val)) rest s) (hm : s.mapped = true) :
    ∃ t u, runMove (.core c) s = .next t ∧ runMove (.core c) t = .next u ∧ u.lsie = s.lsie ∧
      u.msip = s.msip.set d.val false d.isLt ∧ u.reply[c] = .clear (clearResult s.msip[d]) := by
  refine ⟨_, _, runMove_clear h hm, runMove_clearWrite (d := d) (b := s.msip[d]) ?_ ?_ ?_, ?_, ?_, ?_⟩
  · exact able_of_same h.able (by simp [begun]) (by simp [begun])
  all_goals simp [begun, hm]

/-- `enable` where the mechanism is available (R154). -/
theorem runMove_enable {c : CoreId} {rest : List Request} {s : State} (h : Issues c (.op .enable) rest s)
    (ha : s.platform.enableAvailable[c] = true) :
    runMove (.core c) s = .next (finish (.mask .ok) (setLsie c true (begun c rest s))) := by
  rw [runMove_of_issues h, issue, startOp, opEnable]
  exact if_pos ha

/-- `disable` where the mechanism is available (R155). -/
theorem runMove_disable {c : CoreId} {rest : List Request} {s : State} (h : Issues c (.op .disable) rest s)
    (ha : s.platform.enableAvailable[c] = true) :
    runMove (.core c) s = .next (finish (.mask .ok) (setLsie c false (begun c rest s))) := by
  rw [runMove_of_issues h, issue, startOp, opDisable]
  exact if_pos ha

/-- Another core that is about to issue a request still is after core `c`'s `send`. -/
theorem issues_after_send {c d e : CoreId} {q : Request} {r : Reply} {b : BusReq} {rc rest : List Request} {s : State}
    (hcd : c ≠ d) (h : Issues d q rest s) : Issues d q rest (finish r (setReply c .done
      (setMsip e true (logTransaction b (begun c rc s))))) where
  able := able_of_same h.able rfl rfl
  idle := by simpa [begun, hcd] using h.idle
  program := by simpa [begun, hcd] using h.program

/-! ### The per-core state machine -/

theorem viewOf_enable (l m : Bool) : viewOf true m = afterEnable (viewOf l m) := by cases l <;> cases m <;> rfl

theorem viewOf_disable (l m : Bool) : viewOf false m = afterDisable (viewOf l m) := by cases l <;> cases m <;> rfl

theorem viewOf_send (l m : Bool) : viewOf l true = afterSend (viewOf l m) := by cases l <;> cases m <;> rfl

theorem viewOf_clear (l m : Bool) : (viewOf l false, clearResult m) = afterClear (viewOf l m) := by
  cases l <;> cases m <;> rfl

/-- The state of a core in its state machine is seen in its LSIE and MSIP alone (R28). -/
theorem ipiState_congr {e : CoreId} {s t : State} (hl : t.lsie[e] = s.lsie[e]) (hm : t.msip[e] = s.msip[e]) :
    ipiState e t = ipiState e s := by
  rw [ipiState, ipiState, hl, hm]

/-- Settles O39, a column of R161 at a time: `enable` and `disable` write LSIE of the caller, `send` and `clear` the
MSIP bit of the target. -/
theorem ipiStateMachine : Obligations.IpiStateMachine := by
  intro c d rest s hm
  refine ⟨fun h ha => ⟨_, runMove_enable h ha, ?_, fun e he => ?_⟩,
    fun h ha => ⟨_, runMove_disable h ha, ?_, fun e he => ?_⟩,
    fun h => ⟨_, runMove_send h hm, ?_, fun e he => ?_⟩, fun h => ?_⟩
  · rw [ipiState, ipiState, ← viewOf_enable]; simp [begun]
  · exact ipiState_congr (by simp [begun, Ne.symm he]) rfl
  · rw [ipiState, ipiState, ← viewOf_disable]; simp [begun]
  · exact ipiState_congr (by simp [begun, Ne.symm he]) rfl
  · rw [ipiState, ipiState, ← viewOf_send]; simp [begun]
  · exact ipiState_congr rfl (by simp [begun, Ne.symm he])
  · obtain ⟨t, u, ht, hu, hl, hms, hr⟩ := runMove_clear_both h hm
    refine ⟨t, u, ht, hu, ?_, ?_, fun e he => ipiState_congr (by rw [hl]) ?_⟩
    · rw [ipiState, ipiState, ← viewOf_clear]; simp [hl, hms]
    · rw [hr, ipiState, ← viewOf_clear]
    · simp [hms, Ne.symm he]

/-! ### The independence of the MSIP cells -/

/-- A write of an MSIP register keeps the bit of every other (R36). -/
theorem exec_msipWr_others {idx : BitVec 12} {v : Word} {s t : State} {d : CoreId}
    (h : exec (.msipWr idx v) s = .next t) (hd : d.val ≠ idx.toNat) : t.msip[d] = s.msip[d] := by
  simp only [exec, execMsipWr] at h
  split at h <;> cases h
  · rfl
  next c hc =>
    have hne : c ≠ d := by
      rintro rfl
      exact hd (backed_eq_some.1 hc).symm
    simp [hne]

/-- Settles O43: a write stores to its own cell, a read answers its own cell, and two stores to two cells commute. -/
theorem msipCellsIndependent : Obligations.MsipCellsIndependent := by
  refine ⟨fun _ _ _ _ _ h hd => exec_msipWr_others h hd, fun idx s s' t t' c hc heq h h' => ?_,
    fun c d i j rc rd s hcd hij hm hi hj => ?_⟩
  · rw [exec_msipRd_backed hc] at h h'
    cases h; cases h'
    simp [msipWord_eq_ite, heq]
  · refine ⟨_, _, _, _, runMove_send hi hm, runMove_send (issues_after_send hcd hj) hm, runMove_send hj hm,
      runMove_send (issues_after_send hcd.symm hi) hm, ?_, ?_, ?_, ?_, ?_, ?_⟩
    · simp [begun]
    · simp [begun]
    · exact Vector.set_comm (hi := i.isLt) (hj := j.isLt) _ _ fun e => hij (Fin.ext e)
    · refine perCore_ext fun e => ?_
      by_cases hc : c = e
      · subst hc; simp [begun, hcd.symm]
      · simp [begun, hc]
    · simp [begun, hcd.symm]
    · simp [begun]

end Sys2Proof.Machine
end

section
/-! SUPPORT. The proofs of the statements about the address space and the order of the transactions (20_memory.md),
and the facts about the model they need. -/

namespace Sys2Proof.Machine

open Sys2Proof.Safety

/-! ### What a transaction writes -/

/-- A write of an MSIP register stores bit 0 of the data in the register it names and keeps every other (R101). -/
theorem exec_msipWr_msip {idx : BitVec 12} {v : Word} {s t : State} (h : exec (.msipWr idx v) s = .next t)
    (c : CoreId) : t.msip[c] = if idx.toNat = c.val then v[0] else s.msip[c] := by
  split
  next hc =>
    rw [exec_msipWr_backed hc] at h
    cases h
    simp
  next hc => exact exec_msipWr_others h (Ne.symm hc)

theorem exec_msipWr_mtimecmp {idx : BitVec 12} {v : Word} {s t : State} (h : exec (.msipWr idx v) s = .next t) :
    t.mtimecmp = s.mtimecmp := by
  simp only [exec, execMsipWr] at h
  split at h <;> cases h <;> rfl

theorem writeMtimecmp_msip (i : BitVec 12) (off : Offset) (v : Dword) (s : State) :
    (writeMtimecmp i off v s).msip = s.msip := by
  rw [writeMtimecmp]
  split <;> rfl

/-- A write of an MTIMECMP register stores the data in the register it names and keeps every other (R104). -/
theorem writeMtimecmp_mtimecmp (i : BitVec 12) (off : Offset) (v : Dword) (s : State) (c : CoreId) :
    (writeMtimecmp i off v s).mtimecmp[c] = if i.toNat = c.val then v else s.mtimecmp[c] := by
  rw [writeMtimecmp]
  split
  next hb =>
    have hi : i.toNat ≠ c.val := fun e => by simp [e] at hb
    rw [if_neg hi, raiseFault_mtimecmp]
  next d hd =>
    rw [backed_eq_some] at hd
    simp [hd, Fin.ext_iff]

/-- After a transaction `MSIP[c]` holds what the transaction writes to it, or what it held (R69). -/
theorem exec_decode_msip {r : BusReq} {s t : State} (h : exec (decode r) s = .next t) (c : CoreId) :
    t.msip[c] = (msipWritten c r).getD s.msip[c] := by
  rw [msipWritten]
  cases hi : decode r <;> rw [hi] at h
  case msipWr idx v =>
    rw [exec_msipWr_msip h]
    dsimp only
    split <;> rfl
  case mtimecmpWrLo i v | mtimecmpWrHi i v => cases h; simp [writeMtimecmp_msip]
  all_goals
    obtain ⟨hm, -⟩ := exec_registers_of_no_store rfl h
    simp [hm]

/-- After a transaction `MTIMECMP[c]` holds what the transaction writes to it, or what it held (R69). -/
theorem exec_decode_mtimecmp {r : BusReq} {s t : State} (h : exec (decode r) s = .next t) (c : CoreId) :
    t.mtimecmp[c] = (mtimecmpWritten c r).getD s.mtimecmp[c] := by
  rw [mtimecmpWritten]
  cases hi : decode r <;> rw [hi] at h
  case mtimecmpWrLo i v | mtimecmpWrHi i v =>
    cases h
    rw [writeMtimecmp_mtimecmp]
    dsimp only
    split <;> rfl
  case msipWr idx v => simp [exec_msipWr_mtimecmp h]
  all_goals
    obtain ⟨-, hc⟩ := exec_registers_of_no_store rfl h
    simp [hc]

/-! ### What a step does to the registers and the order `<B` -/

/-- From `s` to `t` no transaction reached the block and the registers stayed, or one transaction did, came last in
`<B`, and wrote what it writes (R63, R69). -/
inductive OrderStep (s t : State) : Prop where
  | quiet (history : t.history = s.history) (msip : t.msip = s.msip) (mtimecmp : t.mtimecmp = s.mtimecmp)
  | transaction (d : CoreId) (r : BusReq) (history : t.history = (d, r) :: s.history)
      (msip : ∀ c : CoreId, t.msip[c] = (msipWritten c r).getD s.msip[c])
      (mtimecmp : ∀ c : CoreId, t.mtimecmp[c] = (mtimecmpWritten c r).getD s.mtimecmp[c])

/-- `OrderStep` speaks of the registers and the order alone. -/
theorem OrderStep.congr_left {s s' t : State} (h : OrderStep s' t) (hh : s'.history = s.history)
    (hm : s'.msip = s.msip) (hc : s'.mtimecmp = s.mtimecmp) : OrderStep s t := by
  cases h with
  | quiet h h' h'' => exact .quiet (h.trans hh) (h'.trans hm) (h''.trans hc)
  | transaction d r h h' h'' =>
    exact .transaction d r (hh ▸ h) (by simpa only [hm] using h') (by simpa only [hc] using h'')

theorem OrderStep.concluded {s v t : State} (h : OrderStep s v) (h' : Concluded v t) : OrderStep s t := by
  cases h with
  | quiet hh hm hc => exact .quiet (h'.history.trans hh) (h'.msip.trans hm) (h'.mtimecmp.trans hc)
  | transaction d r hh hm hc =>
    exact .transaction d r (h'.history.trans hh) (by simpa only [h'.msip] using hm)
      (by simpa only [h'.mtimecmp] using hc)

/-- A transaction takes its place in `<B` and is applied in one step (R63). -/
theorem orderStep_transact {r : BusReq} {u v : State} (h : transact r u = .next v) : OrderStep u v := by
  have he := (transact_eq_next.1 h).2
  exact .transaction u.self r (exec_frame he).history (fun c => exec_decode_msip he c)
    (fun c => exec_decode_mtimecmp he c)

theorem Access.orderStep {u t : State} (h : Access u t) : OrderStep u t := by
  cases h with
  | nothing h => exact .quiet h.history h.msip h.mtimecmp
  | boundary q off h => subst h; exact .quiet rfl rfl rfl
  | transaction r v h h' _ => exact (orderStep_transact h).concluded h'

/-- Every move makes one transaction at most: a core's step makes one access, and no other move touches the registers
of the order. -/
theorem runMove_orderStep {m : Move} {s t : State} (h : runMove m s = .next t) : OrderStep s t := by
  obtain ⟨c, rfl⟩ | hm := core_or_other m
  · obtain ⟨-, u, hu, ha, -⟩ := moveCore_shape h
    exact ha.orderStep.congr_left hu.history hu.msip hu.mtimecmp
  · rcases runMove_other hm h with ⟨-, rfl⟩ | ⟨-, rfl⟩ | ⟨c, r, -, rfl⟩ | ⟨c, q, -, rfl⟩ | ⟨c, k, -, rfl⟩ <;>
      exact .quiet rfl rfl rfl

theorem step_orderStep {s t : State} (h : step s = .next t) : OrderStep s t := by
  have ho := runMove_orderStep (show runMove (nextMove s).1 (nextMove s).2 = .next t from h)
  rcases nextMove_cases s with ⟨rest, hs⟩ | hs <;> rw [hs] at ho <;> exact ho.congr_left rfl rfl rfl

/-- Settles O45: a step extends the order by the transaction it applies, whose writes are the last ones of the new
order. -/
theorem orderKept : Obligations.OrderKept := by
  intro m0 t0 s t hf h
  cases step_orderStep h with
  | quiet hh hm hc =>
    exact ⟨fun c => by simpa only [hh, hm] using hf.msip c, fun c => by simpa only [hh, hc] using hf.mtimecmp c⟩
  | transaction d r hh hm hc =>
    exact ⟨fun c => by rw [hm, hf.msip, hh, lastWritten], fun c => by rw [hc, hf.mtimecmp, hh, lastWritten]⟩

/-- Settles O46: a step makes one access at most, and an access one transaction at most. -/
theorem oneTransactionAStep : Obligations.OneTransactionAStep := by
  intro s t h
  cases step_orderStep h with
  | quiet hh _ _ => exact .inl hh
  | transaction d r hh _ _ => exact .inr ⟨d, r, hh⟩

/-! ### The layout -/

/-- The regions come in ascending order, each ending where the next begins or before (R56). -/
theorem layout_ascending : layout.Pairwise fun r q => r.base + r.size ≤ q.base := by decide

theorem regionHolds_iff {off : Nat} {r : Region} :
    regionHolds off r = true ↔ r.base ≤ off ∧ off < r.base + r.size := by
  simp [regionHolds]

/-- Some region holds each offset of the window: there is no gap (R56). -/
theorem exists_region_of_lt {off : Nat} (h : off < 0xF000) : ∃ r ∈ layout, regionHolds off r = true := by
  have hsome : regionOf off ≠ none := by rw [regionOf_eq]; grind
  simpa [regionOf] using hsome

/-- No two regions hold one offset: there is no overlap (R56). -/
theorem region_unique {off : Nat} {r q : Region} (hr : r ∈ layout) (hq : q ∈ layout)
    (hor : regionHolds off r = true) (hoq : regionHolds off q = true) : r = q := by
  rw [regionHolds_iff] at hor hoq
  have hapart : ∀ x ∈ layout, ∀ y ∈ layout, x = y ∨ x.base + x.size ≤ y.base ∨ y.base + y.size ≤ x.base := by
    decide
  rcases hapart r hr q hq with h | h | h
  · exact h
  · omega
  · omega

/-- Settles O6: the ascending order of the regions leaves no overlap, and their bounds leave no gap. -/
theorem layoutCovers : Obligations.LayoutCovers := by
  refine ⟨rfl, layout_ascending, rfl, fun off h => ?_, fun off h => ?_⟩
  · obtain ⟨r, hr, ho⟩ := exists_region_of_lt h
    exact ⟨r, ⟨hr, ho⟩, fun q ⟨hq, hoq⟩ => region_unique hq hr hoq ho⟩
  · rw [regionOf_eq]
    grind

/-- An access in the window is the transaction at the offset of R50. -/
theorem memAccess_inside {a : Nat} {s : State} (h : s.platform.base ≤ a ∧ a < s.platform.base + 0xF000) (w : Dir)
    (sz : Size) (d : Dword) :
    memAccess w sz a d s = transact ⟨mkKey w sz (BitVec.ofNat 16 (a - s.platform.base)), d⟩ s := by
  simp only [memAccess, windowOffset_inside h]

/-- An access outside the window is answered alone (R50). -/
theorem memAccess_outside {a : Nat} {s : State} (h : ¬(s.platform.base ≤ a ∧ a < s.platform.base + 0xF000)) (w : Dir)
    (sz : Size) (d : Dword) : memAccess w sz a d s = .next (setReply s.self .notReached s) := by
  simp only [memAccess, windowOffset_outside h, outsideWindow]

/-- Settles O8: in the window the access is the transaction at the offset of R50, and elsewhere it only
is answered. -/
theorem byteAddress : Obligations.ByteAddress := by
  intro w sz a d s
  refine ⟨fun h => ?_,
    fun h => ⟨setReply s.self .notReached s, ?_, ⟨setReply_self_frame _ _, rfl, rfl, ?_⟩, rfl, rfl⟩⟩
  · exact memAccess_inside h w sz d
  · exact memAccess_outside h w sz d
  · simp

/-! ### Reads and repeated writes -/

/-- The row that decides a key fits it. -/
theorem rowFits_selectRow (k : Key) : rowFits k (selectRow k) = true := by
  rw [selectRow]
  cases h : rowOrder.find? (rowFits k) with
  | none => exact fits_badAccess k
  | some q => exact List.find?_some h

/-- A key with `W = 0` decodes to a row that stores nothing: the rows that do have `W = 1` in their match (R85). -/
theorem storeRange_decode_of_read {r : BusReq} (h : r.key[18] = false) : storeRange (decode r) = none := by
  have hfit := rowFits_selectRow r.key
  rw [decode]
  cases hq : selectRow r.key <;> rw [hq] at hfit
  case msipWr => simp [fits_msipWr, h] at hfit
  case mtimecmpWrLo => simp [fits_mtimecmpWrLo, h] at hfit
  case mtimecmpWrHi => simp [fits_mtimecmpWrHi, h] at hfit
  all_goals rfl

/-- Settles O22: a read is a row that stores nothing. -/
theorem readsKeepRegisters : Obligations.ReadsKeepRegisters := by
  intro r s hr
  obtain ⟨t, h⟩ := exec_next (decode r) s
  obtain ⟨hm, hc⟩ := exec_registers_of_no_store (storeRange_decode_of_read hr) h
  have hf := exec_frame h
  exact ⟨t, h, hm, hc, hf.mtime, hf.lsie, hf.mapped⟩

/-- A set holds a record once (R30). -/
theorem insertRecord_twice (r : FaultRecord) (l : List FaultRecord) :
    insertRecord r (insertRecord r l) = insertRecord r l := by
  induction l with
  | nil => simp [insertRecord]
  | cons x xs ih =>
    by_cases hlt : recordRank r < recordRank x
    · simp [insertRecord, hlt]
    by_cases heq : recordRank r = recordRank x
    · simp [insertRecord, heq]
    · simp [insertRecord, hlt, heq, ih]

/-- The same fault of the same agent, raised again, changes nothing. -/
theorem raiseFault_twice (q : Reason) (off : Option Offset) (s : State) :
    raiseFault q off (raiseFault q off s) = raiseFault q off s := by
  simp [raiseFault, setReply, setPosition, setFaults, insertRecord_twice]

/-- The same write of `MSIP[c]` with the same answer, done again, changes nothing. -/
theorem setMsip_done_twice (c d : CoreId) (b : Bool) (s : State) :
    setReply d .done (setMsip c b (setReply d .done (setMsip c b s))) = setReply d .done (setMsip c b s) := by
  simp [setReply, setMsip]

/-- Settles O24: the second write stores what stands there, and the second fault is the record that stands there. -/
theorem msipIdempotent : Obligations.MsipIdempotent := by
  intro idx v v' s t hv h
  rcases Nat.lt_or_ge idx.toNat Config.numCores with hi | hi
  · have hb : idx.toNat = (⟨idx.toNat, hi⟩ : CoreId).val := rfl
    rw [exec_msipWr_backed hb] at h ⊢
    cases h
    rw [← hv, setReply_self, setMsip_self, setMsip_done_twice]
  · rw [exec_msipWr_unbacked hi] at h ⊢
    cases h
    rw [raiseFault_twice]

/-! ### The boundary -/

/-- What a fault leaves is what R180 says of it. -/
theorem raiseFault_taken (q : Reason) (off : Option Offset) (s : State) :
    FaultTaken q off s (raiseFault q off s) where
  frame := raiseFault_frame q off s
  msip := rfl
  mtimecmp := rfl
  records r := by simp
  position := by simp
  reply := by simp
  stops := by simp

/-- A request in the window that no key expresses takes its fault (R90). -/
theorem boundaryFault_taken {c : CoreId} {q : Request} {a : Nat} {rest : List Request} {s : State}
    (ha : s.platform.base ≤ a ∧ a < s.platform.base + 0xF000) (h : Issues c q rest s) (p : Reason) :
    ∃ t, boundaryFault p a (begun c rest s) = .next t ∧
      FaultTaken p (some (BitVec.ofNat 16 (a - s.platform.base))) (begun c rest s) t :=
  ⟨_, boundaryFault_machine (s := begun c rest s) (windowOffset_inside ha) h.able.mode, raiseFault_taken _ _ _⟩

/-- Settles O28: in machine mode both requests take their own fault at the boundary. -/
theorem atomicAndFetchFault : Obligations.AtomicAndFetchFault := by
  intro c a rest s ha
  refine ⟨fun h => ?_, fun h => ?_⟩ <;> rw [runMove_of_issues h, issue] <;> exact boundaryFault_taken ha h _

/-- Settles O26: the schedule names the core, which begins the request in machine mode. -/
theorem stepRunsDecoded : Obligations.StepRunsDecoded := by
  intro c r rest moves s hs h
  have h' : Issues c (.bus r) rest (setSchedule moves s) := ⟨able_of_same h.able rfl rfl, h.idle, h.program⟩
  rw [step, nextMove_cons hs, runMove_of_issues h', issue, transact_machine h'.able.mode]

/-- Settles O27: the mode is checked where a transaction is issued, and at the boundary before the fault. -/
theorem otherModeRefused : Obligations.OtherModeRefused := by
  intro c q rest s hs hw hm hp hq h
  have hmode : (begun c rest s).core[(begun c rest s).self].mode = .other := hm
  rw [moveCore_advance hs hw, advance_idle hp hq, ← begun]
  rcases h with ⟨r, rfl⟩ | ⟨a, ha, rfl | rfl | ⟨w, sz, d, rfl⟩⟩ <;> rw [issue]
  · exact transact_other hmode
  · exact boundaryFault_other (windowOffset_inside ha) hmode
  · exact boundaryFault_other (windowOffset_inside ha) hmode
  · rw [memAccess_inside (s := begun c rest s) ha]
    exact transact_other hmode

/-! ### The read after a trap -/

/-- A core that takes its software interrupt has its bit at 1, and the trap keeps it (R192, R193). -/
theorem msip_of_takeMsi {b : CoreId} {s t : State} (h : runMove (.takeMsi b) s = .next t) : t.msip[b] = true := by
  simp only [runMove, moveTakeMsi, ifRunning_eq_next] at h
  obtain ⟨-, h⟩ := h
  split at h <;> cases h
  next he =>
    simp only [msiEnabled, Bool.and_eq_true] at he
    obtain ⟨⟨hirq, -⟩, -⟩ := he
    exact hirq

/-- A step that puts no write of `MSIP[b]` into the order keeps the bit. -/
theorem OrderStep.msip_of_noMsipWrite {b : CoreId} {s t : State} (h : OrderStep s t) (hn : NoMsipWrite b s t) :
    t.msip[b] = s.msip[b] := by
  cases h with
  | quiet _ hm _ => rw [hm]
  | transaction d r hh hm _ =>
    have hw : msipWritten b r = none := by
      rcases hn with hs | ⟨d', r', hr, hw⟩
      · exact absurd (hh.symm.trans hs) (List.cons_ne_self _ _)
      · cases hh.symm.trans hr
        exact hw
    rw [hm, hw, Option.getD_none]

/-- Moves that write no `MSIP[b]` keep the bit (R77). -/
theorem msip_of_undisturbed {b : CoreId} {s t : State} (h : Undisturbed b s t) : t.msip[b] = s.msip[b] := by
  induction h with
  | refl => rfl
  | move m _ hm hn ih => exact ((runMove_orderStep hm).msip_of_noMsipWrite hn).trans ih

/-- What `self` reads of an MSIP register has the stored bit as bit 0 (R22). -/
theorem repliedBit_msipWord (d : CoreId) (s u : State) :
    repliedBit (setReply u.self (.data32 (msipWord d s)) u) = s.msip[d] := by
  simp [repliedBit]

/-- `read_msip(d)` of a backed core, with the window mapped (R144). -/
theorem runMove_readMsip {c d : CoreId} {rest : List Request} {s : State}
    (h : Issues c (.op (.readMsip d.val)) rest s) (hm : s.mapped = true) :
    runMove (.core c) s = .next (finish (.bit s.msip[d])
      (setReply c (.data32 (msipWord d s)) (logTransaction (rd32 (msipAt d.val)) (begun c rest s)))) := by
  rw [runMove_of_issues h, issue, startOp, opReadMsip, if_neg (Nat.not_le.2 (core_lt_maxCores d)), begun_mapped,
    if_pos hm, afterRead_backed (s := begun c rest s) h.able.mode h.able.running, ← repliedBit_msipWord]
  rfl

/-- A read transaction on the MSIP register of core `d` (R100). -/
theorem runMove_rd32_msip {c d : CoreId} {rest : List Request} {s : State}
    (h : Issues c (.bus (rd32 (msipOffset (BitVec.ofNat 12 d.val)))) rest s) :
    runMove (.core c) s = .next (setReply c (.data32 (msipWord d s))
      (logTransaction (rd32 (msipAt d.val)) (begun c rest s))) := by
  have hd := core_lt_maxCores d
  rw [runMove_of_issues h, issue, ← msipAt_eq (by omega),
    transact_rd32_backed (s := begun c rest s) h.able.mode]
  rfl

/-- Settles O44: the bit was 1 at the trap, nothing has written it since, and each way to read it answers it. -/
theorem trapThenRead : Obligations.TrapThenRead := by
  intro b rest s t u ht hu
  have hbit : u.msip[b] = true := (msip_of_undisturbed hu).trans (msip_of_takeMsi ht)
  refine ⟨fun h hm => ⟨_, runMove_readMsip h hm, ?_⟩, fun h hm => ⟨_, runMove_clear h hm, ?_⟩,
    fun h => ⟨_, runMove_rd32_msip h, ?_⟩⟩
  · simp [begun, hbit]
  · simp [hbit]
  · simp [msipWord_eq_ite, hbit]

end Sys2Proof.Machine
end

section
/-! SUPPORT. The proofs of the statements about the encoding (30_encoding.md), and the facts about the key, the rows
of the decode table and the encoder they need. -/

namespace Sys2Proof

open Machine (msipOffset_toNat timerLoOffset_toNat)

/-! ### The fields of a key (R80) -/

theorem dirBit_dirOfBit (b : Bool) : (dirBit (dirOfBit b)).getLsbD 0 = b := by cases b <;> rfl

theorem sizeCode_sizeOfBits_zero (hi lo : Bool) : (sizeCode (sizeOfBits hi lo)).getLsbD 0 = lo := by
  cases hi <;> cases lo <;> rfl

theorem sizeCode_sizeOfBits_one (hi lo : Bool) : (sizeCode (sizeOfBits hi lo)).getLsbD 1 = hi := by
  cases hi <;> cases lo <;> rfl

/-- A key is its three fields, written together (R80). -/
theorem mkKey_fields (k : Key) : mkKey (keyDir k) (keySize k) (keyOff k) = k := by
  refine BitVec.eq_of_getLsbD_eq fun i hi => ?_
  rw [mkKey_getLsbD]
  split_ifs with h16 h18
  · simp [keyOff, h16]
  · obtain rfl | rfl : i = 16 ∨ i = 17 := by omega
    · exact sizeCode_sizeOfBits_zero _ _
    · exact sizeCode_sizeOfBits_one _ _
  · obtain rfl : i = 18 := by omega
    exact dirBit_dirOfBit _

/-- Two keys are equal only when their fields are (R80). -/
theorem mkKey_inj {w w' : Dir} {sz sz' : Size} {off off' : Offset} :
    mkKey w sz off = mkKey w' sz' off' ↔ w = w' ∧ sz = sz' ∧ off = off' := by
  refine ⟨fun h => ⟨?_, ?_, ?_⟩, fun ⟨hw, hsz, hoff⟩ => by rw [hw, hsz, hoff]⟩
  · simpa using congrArg keyDir h
  · simpa using congrArg keySize h
  · simpa using congrArg keyOff h

/-- The field `W` of an encoded key, as a bit. -/
theorem mkKey_getLsbD_18 (w : Dir) (sz : Size) (off : Offset) :
    (mkKey w sz off).getLsbD 18 = decide (w = .write) := by
  rw [mkKey_getLsbD]
  cases w <;> rfl

/-- The upper bit of the field `SZ` of an encoded key. -/
theorem mkKey_getLsbD_17 (w : Dir) (sz : Size) (off : Offset) :
    (mkKey w sz off).getLsbD 17 = decide (sz = .b4 ∨ sz = .b8) := by
  rw [mkKey_getLsbD]
  cases sz <;> rfl

/-- The lower bit of the field `SZ` of an encoded key. -/
theorem mkKey_getLsbD_16 (w : Dir) (sz : Size) (off : Offset) :
    (mkKey w sz off).getLsbD 16 = decide (sz = .b2 ∨ sz = .b8) := by
  rw [mkKey_getLsbD]
  cases sz <;> rfl

/-- An offset bit of an encoded key, by arithmetic on the offset's value. -/
theorem mkKey_getLsbD_of_lt (w : Dir) (sz : Size) (off : Offset) {i : Nat} (hi : i < 16) :
    (mkKey w sz off).getLsbD i = decide (off.toNat / 2 ^ i % 2 = 1) := by
  rw [mkKey_getLsbD, if_pos hi, ← BitVec.testBit_toNat, Nat.testBit_eq_decide_div_mod_eq]

/-! ### The accesses that fit a row -/

/-- The accesses that fit a row of the table, by direction, size and offset (R85, R86). -/
def RowAccess (w : Dir) (sz : Size) (off : Offset) : Row → Prop
  | .padAccess => off = 0x3FFC#16
  | .outside => 0xF000 ≤ off.toNat
  | .rsvAccess => 0xC000 ≤ off.toNat
  | .mtimeRd => w = .read ∧ sz = .b8 ∧ off = 0xBFF8#16
  | .mtimeWr => w = .write ∧ sz = .b8 ∧ off = 0xBFF8#16
  | .msipRd => w = .read ∧ sz = .b4 ∧ off.toNat < 0x4000 ∧ off.toNat % 4 = 0
  | .msipWr => w = .write ∧ sz = .b4 ∧ off.toNat < 0x4000 ∧ off.toNat % 4 = 0
  | .mtimecmpRdLo => w = .read ∧ sz = .b8 ∧ 0x4000 ≤ off.toNat ∧ off.toNat < 0x8000 ∧ off.toNat % 8 = 0
  | .mtimecmpRdHi => w = .read ∧ sz = .b8 ∧ 0x8000 ≤ off.toNat ∧ off.toNat < 0xC000 ∧ off.toNat % 8 = 0
  | .mtimecmpWrLo => w = .write ∧ sz = .b8 ∧ 0x4000 ≤ off.toNat ∧ off.toNat < 0x8000 ∧ off.toNat % 8 = 0
  | .mtimecmpWrHi => w = .write ∧ sz = .b8 ∧ 0x8000 ≤ off.toNat ∧ off.toNat < 0xC000 ∧ off.toNat % 8 = 0
  | .badAccess => True

/-- A row whose mask is all ones is fit by its match alone. -/
theorem rowFits_of_fullMask {q : Row} (hq : rowMask q = BitVec.allOnes 19) (k : Key) :
    rowFits k q = true ↔ k = rowMatch q := by
  rw [rowFits, hq, BitVec.and_allOnes, beq_iff_eq]

/-- The padding word: the mask is the whole offset, and neither `W` nor `SZ` (R85, row 1). -/
theorem and_rowMask_padAccess (k : Key) : k &&& rowMask .padAccess = mkKey .read .b1 (keyOff k) := by
  refine BitVec.eq_of_getLsbD_eq fun i hi => ?_
  rw [BitVec.getLsbD_and, mkKey_getLsbD]
  interval_cases i <;> simp [keyOff, rowMask, sizeCode, dirBit]

/-- The masks and matches of R85 fit the accesses that R86 gives in prose. -/
theorem rowFits_mkKey (w : Dir) (sz : Size) (off : Offset) (q : Row) :
    rowFits (mkKey w sz off) q = true ↔ RowAccess w sz off q := by
  have hoff := off.isLt
  cases q
  case padAccess =>
    rw [rowFits, beq_iff_eq, and_rowMask_padAccess, keyOff_mkKey]
    exact (mkKey_inj (w' := .read) (sz' := .b1) (off' := 0x3FFC#16)).trans (by simp [RowAccess])
  case mtimeRd => exact (rowFits_of_fullMask rfl _).trans (mkKey_inj (w' := .read) (sz' := .b8) (off' := 0xBFF8#16))
  case mtimeWr => exact (rowFits_of_fullMask rfl _).trans (mkKey_inj (w' := .write) (sz' := .b8) (off' := 0xBFF8#16))
  case badAccess => simp only [fits_badAccess, RowAccess]
  case outside =>
    simp (disch := decide) only [fits_outside, RowAccess, mkKey_getLsbD_of_lt, decide_eq_true_eq]
    omega
  case rsvAccess =>
    simp (disch := decide) only [fits_rsvAccess, RowAccess, mkKey_getLsbD_of_lt, decide_eq_true_eq]
    omega
  all_goals
    simp (disch := decide) only [fits_msipRd, fits_msipWr, fits_mtimecmpRdLo, fits_mtimecmpRdHi, fits_mtimecmpWrLo,
      fits_mtimecmpWrHi, RowAccess, mkKey_getLsbD_16, mkKey_getLsbD_17, mkKey_getLsbD_18,
      mkKey_getLsbD_of_lt, decide_eq_true_eq, decide_eq_false_iff_not]
    cases w <;> cases sz <;> simp
    omega

/-! ### Which row decides a key (R85, R86) -/

/-- Some row fits every key, so the first match is never missing (R85). -/
theorem find?_rowFits (k : Key) : rowOrder.find? (rowFits k) = some (selectRow k) := by
  cases h : rowOrder.find? (rowFits k) with
  | none => exact absurd (fits_badAccess k) (List.find?_eq_none.1 h .badAccess (by decide))
  | some q => rw [selectRow, h, Option.getD_some]

/-- The first match in a list is an entry that fits when no entry before it does. -/
theorem find?_eq_some_iff_of_fits {p : Row → Bool} {q : Row} (hq : p q = true) {l : List Row} (hl : q ∈ l) :
    l.find? p = some q ↔ ∀ a ∈ l.takeWhile (· ≠ q), p a = false := by
  induction l with
  | nil => simp at hl
  | cons x xs ih =>
    by_cases hx : x = q
    · simp [hx, hq]
    · cases hp : p x with
      | true => simp [hx, hp]
      | false => simpa [hx, hp] using ih (List.mem_of_ne_of_mem (Ne.symm hx) hl)

/-- A row that fits a key decides it when no earlier row fits (R85). -/
theorem selectRow_eq_iff {k : Key} {q : Row} (hq : rowFits k q = true) :
    selectRow k = q ↔ ∀ a ∈ rowOrder.takeWhile (· ≠ q), rowFits k a = false := by
  rw [← find?_eq_some_iff_of_fits hq (by cases q <;> decide), find?_rowFits, Option.some_inj]

/-- Settles O3: the masks and matches written out are the model's, in the order of the rows; the last fits every key. -/
theorem firstMatch : Obligations.FirstMatch := by
  intro r
  rw [rowOf_decode]
  change ((rowOrder.map fun q => (q, rowMask q, rowMatch q)).find? _).map _ = _
  rw [List.find?_map, Option.map_map]
  exact congrArg (Option.map id) (find?_rowFits r.key)

/-- Settles O4: first match, each row's fit said in prose, is the chain of R86 for each direction and size. -/
theorem opcodeMap : Obligations.OpcodeMap := by
  intro w sz off data
  have hoff := off.isLt
  simp only [rowOf_decode, selectRow_eq, rowFits_mkKey, RowAccess]
  cases w <;> cases sz <;> simp <;> grind

/-! ### What the encoder writes for a decoded key -/

theorem timerHiOffset_toNat (t : BitVec 11) : (timerHiOffset t).toNat = 0x8000 + 8 * t.toNat :=
  calc (timerHiOffset t).toNat = (2#2 ++ t).toNat * 8 + 0 := Machine.toNat_append_eq _ _
    _ = 0x8000 + 8 * t.toNat := by rw [Machine.toNat_append_eq, BitVec.toNat_ofNat]; omega

theorem outsideOffset_toNat (low : BitVec 12) : (outsideOffset low).toNat = 0xF000 + low.toNat :=
  Machine.toNat_append_eq _ _

theorem rsvOffset_toNat (low : BitVec 14) : (rsvOffset low).toNat = 0xC000 + low.toNat :=
  Machine.toNat_append_eq _ _

/-- The bits of an offset that are cut out of an encoded key, by arithmetic. -/
theorem toNat_extract_mkKey (w : Dir) (sz : Size) (off : Offset) (i n : Nat) (h : i + n ≤ 16) :
    ((mkKey w sz off).extractLsb' i n).toNat = off.toNat / 2 ^ i % 2 ^ n := by
  rw [extract_mkKey _ _ _ _ _ h, BitVec.extractLsb'_toNat, Nat.shiftRight_eq_div_pow]

/-- An MSIP offset is rebuilt from its index (R83). -/
theorem msipOffset_keyIdx {off : Offset} (hlt : off.toNat < 0x4000) (hal : off.toNat % 4 = 0) (w : Dir) (sz : Size) :
    msipOffset (keyIdx (mkKey w sz off)) = off := by
  rw [← BitVec.toNat_inj, msipOffset_toNat, keyIdx, toNat_extract_mkKey _ _ _ _ _ (by decide)]
  omega

/-- An offset below 0x8000 of a timer register is rebuilt from its index (R84). -/
theorem timerLoOffset_keyTimerLow {off : Offset} (hge : 0x4000 ≤ off.toNat) (hlt : off.toNat < 0x8000)
    (hal : off.toNat % 8 = 0) (w : Dir) (sz : Size) : timerLoOffset (keyTimerLow (mkKey w sz off)) = off := by
  rw [← BitVec.toNat_inj, timerLoOffset_toNat, keyTimerLow, toNat_extract_mkKey _ _ _ _ _ (by decide)]
  omega

/-- An offset from 0x8000 on of a timer register is rebuilt from its index (R84). -/
theorem timerHiOffset_keyTimerLow {off : Offset} (hge : 0x8000 ≤ off.toNat) (hlt : off.toNat < 0xC000)
    (hal : off.toNat % 8 = 0) (w : Dir) (sz : Size) : timerHiOffset (keyTimerLow (mkKey w sz off)) = off := by
  rw [← BitVec.toNat_inj, timerHiOffset_toNat, keyTimerLow, toNat_extract_mkKey _ _ _ _ _ (by decide)]
  omega

theorem outsideOffset_extract {off : Offset} (hge : 0xF000 ≤ off.toNat) (w : Dir) (sz : Size) :
    outsideOffset ((mkKey w sz off).extractLsb' 0 12) = off := by
  have hoff := off.isLt
  rw [← BitVec.toNat_inj, outsideOffset_toNat, toNat_extract_mkKey _ _ _ _ _ (by decide)]
  omega

theorem rsvOffset_extract {off : Offset} (hge : 0xC000 ≤ off.toNat) (w : Dir) (sz : Size) :
    rsvOffset ((mkKey w sz off).extractLsb' 0 14) = off := by
  have hoff := off.isLt
  rw [← BitVec.toNat_inj, rsvOffset_toNat, toNat_extract_mkKey _ _ _ _ _ (by decide)]
  omega

/-- The encoder writes a key again from the operands that a row it fits takes from it. -/
theorem encode_buildInstr_key {r : BusReq} {q : Row} (h : rowFits r.key q = true) :
    (encode (buildInstr r q)).key = r.key := by
  obtain ⟨k, d⟩ := r
  obtain ⟨w, sz, off, rfl⟩ : ∃ w sz off, mkKey w sz off = k := ⟨_, _, _, mkKey_fields k⟩
  rw [rowFits_mkKey] at h
  cases q <;> simp only [RowAccess] at h <;> simp only [buildInstr, encode, keyDir_mkKey, keySize_mkKey, keyOff_mkKey]
  case padAccess => rw [h]
  case outside => rw [outsideOffset_extract h]
  case rsvAccess => rw [rsvOffset_extract h]
  case mtimeRd | mtimeWr =>
    obtain ⟨rfl, rfl, rfl⟩ := h
    rfl
  case msipRd | msipWr =>
    obtain ⟨rfl, rfl, hlt, hal⟩ := h
    rw [msipOffset_keyIdx hlt hal]
  case mtimecmpRdLo | mtimecmpWrLo =>
    obtain ⟨rfl, rfl, hge, hlt, hal⟩ := h
    rw [timerLoOffset_keyTimerLow hge hlt hal]
  case mtimecmpRdHi | mtimecmpWrHi =>
    obtain ⟨rfl, rfl, hge, hlt, hal⟩ := h
    rw [timerHiOffset_keyTimerLow hge hlt hal]

/-! ### What the decoder reads from an encoded key -/

theorem keyTimerLow_timerLoOffset (w : Dir) (sz : Size) (t : BitVec 11) :
    keyTimerLow (mkKey w sz (timerLoOffset t)) = t := by
  rw [← BitVec.toNat_inj, keyTimerLow, toNat_extract_mkKey _ _ _ _ _ (by decide), timerLoOffset_toNat]
  omega

theorem keyTimerLow_timerHiOffset (w : Dir) (sz : Size) (t : BitVec 11) :
    keyTimerLow (mkKey w sz (timerHiOffset t)) = t := by
  rw [← BitVec.toNat_inj, keyTimerLow, toNat_extract_mkKey _ _ _ _ _ (by decide), timerHiOffset_toNat]
  omega

theorem extract_outsideOffset (w : Dir) (sz : Size) (low : BitVec 12) :
    (mkKey w sz (outsideOffset low)).extractLsb' 0 12 = low := by
  rw [← BitVec.toNat_inj, toNat_extract_mkKey _ _ _ _ _ (by decide), outsideOffset_toNat]
  omega

theorem extract_rsvOffset (w : Dir) (sz : Size) (low : BitVec 14) :
    (mkKey w sz (rsvOffset low)).extractLsb' 0 14 = low := by
  rw [← BitVec.toNat_inj, toNat_extract_mkKey _ _ _ _ _ (by decide), rsvOffset_toNat]
  omega

/-- The data of a 4-byte write, widened and cut again (R82). -/
theorem extract_setWidth_word (v : Word) : (v.setWidth 64).extractLsb' 0 32 = v :=
  BitVec.eq_of_getLsbD_eq fun j hj => by simp [hj]; omega

/-- The operands of a row are read back from the key and the data that the encoder writes. -/
theorem buildInstr_encode (i : Instr) : buildInstr (encode i) (rowOf i) = i := by
  cases i <;>
    simp only [encode, rowOf, buildInstr, keyDir_mkKey, keySize_mkKey, keyOff_mkKey, extract_outsideOffset,
      extract_rsvOffset, keyIdx_msipOffset, keyTimerLow_timerLoOffset, keyTimerLow_timerHiOffset,
      extract_setWidth_word]

/-! ### What first match leaves to each row (R85) -/

theorem isMsipAccess_iff (sz : Size) (off : Offset) :
    isMsipAccess sz off = true ↔ sz = .b4 ∧ off.toNat < 0x4000 ∧ off.toNat % 4 = 0 := by
  simp [isMsipAccess, and_assoc]

theorem isTimerAccess_iff (sz : Size) (off : Offset) : isTimerAccess sz off = true ↔
    sz = .b8 ∧ 0x4000 ≤ off.toNat ∧ off.toNat < 0xC000 ∧ off.toNat % 8 = 0 := by
  simp [isTimerAccess, and_assoc]

/-- A transaction is well-formed when no earlier row takes its key from its own row (R85). -/
theorem wellFormed_iff (i : Instr) : wellFormed i = true ↔ selectRow (encode i).key = rowOf i := by
  rw [selectRow_eq_iff (Laws.EncodeFits.statement i)]
  cases i <;>
    simp [rowOf, rowOrder, encode, ← Bool.not_eq_true, rowFits_mkKey, RowAccess, ← BitVec.toNat_inj,
      outsideOffset_toNat, rsvOffset_toNat, msipOffset_toNat, timerLoOffset_toNat, timerHiOffset_toNat, wellFormed,
      isMsipAccess_iff, isTimerAccess_iff]
  case badAccess w sz off => cases w <;> cases sz <;> simp <;> omega
  all_goals omega

/-- Settles O1: a well-formed transaction's key is left to its own row, which reads the operands back. -/
theorem decodeEncode : Obligations.DecodeEncode := by
  intro i hwf
  rw [decode, (wellFormed_iff i).1 hwf, buildInstr_encode]

/-- Settles O2: the row that decides a key fits it, so the key is written again, and it is left to that same row. -/
theorem encodeDecode : Obligations.EncodeDecode := by
  intro r
  have hkey : (encode (decode r)).key = r.key := encode_buildInstr_key (Machine.rowFits_selectRow r.key)
  refine ⟨(wellFormed_iff _).2 ?_, hkey⟩
  rw [hkey, rowOf_decode]

/-- Settles O5: nine fixed keys, decoded. -/
theorem specWords : Obligations.SpecWords := by
  unfold Obligations.SpecWords
  decide

end Sys2Proof
end

section
/-! SUPPORT. The proofs of the statements about the register access (40_register_access.md): which row of the decode
table takes a key that fits it, and what each row answers. -/

namespace Sys2Proof

/-! ### The rows that share keys (R85) -/

/-- The earlier rows that take keys which the row's own mask and match admit: the overlaps that first match settles. -/
def overlapping : Row → List Row
  | .rsvAccess => [.outside]
  | .msipRd | .msipWr => [.padAccess]
  | .mtimecmpRdHi => [.mtimeRd]
  | .mtimecmpWrHi => [.mtimeWr]
  | .badAccess => rowOrder.dropLast
  | .padAccess | .outside | .mtimeRd | .mtimeWr | .mtimecmpRdLo | .mtimecmpWrLo => []

/-- Two rows that fit one key ask for the same bits where both masks look. -/
theorem rowMatch_agree {k : Key} {a q : Row} (ha : k &&& rowMask a = rowMatch a) (hq : k &&& rowMask q = rowMatch q) :
    rowMatch a &&& rowMask q = rowMatch q &&& rowMask a := by
  rw [← ha, ← hq, BitVec.and_assoc, BitVec.and_assoc, BitVec.and_comm (rowMask a)]

/-- Two rows that between them look at every bit share at most one key: that of both matches. -/
theorem eq_of_fits_both {k : Key} {a q : Row} (ha : k &&& rowMask a = rowMatch a) (hq : k &&& rowMask q = rowMatch q)
    (hm : rowMask a ||| rowMask q = BitVec.allOnes 19) : k = rowMatch a ||| rowMatch q := by
  rw [← ha, ← hq, ← BitVec.and_or_distrib_left, hm, BitVec.and_allOnes]

/-- Every other earlier row asks for a bit that this row's match does not have. -/
theorem overlapping_of_agree (q : Row) : ∀ a ∈ rowOrder.takeWhile (· ≠ q),
    rowMatch a &&& rowMask q = rowMatch q &&& rowMask a → a ∈ overlapping q := by
  cases q <;> decide

/-- A key that fits a row is decoded by it, when no overlapping row fits the key too (R85). -/
theorem decode_of_fits {r : BusReq} {q : Row} (hq : r.key &&& rowMask q = rowMatch q)
    (hr : ∀ a ∈ overlapping q, r.key &&& rowMask a ≠ rowMatch a) : decode r = buildInstr r q := by
  have hfit : rowFits r.key q = true := beq_iff_eq.2 hq
  have hrow : selectRow r.key = q := (selectRow_eq_iff hfit).2 fun a ha =>
    beq_eq_false_iff_ne.2 fun hfa => hr a (overlapping_of_agree q a ha (rowMatch_agree hfa hq)) hfa
  rw [decode, hrow]

/-- A row that overlaps with no earlier one decodes every key that fits it. -/
theorem decode_of_fits_alone {r : BusReq} {q : Row} (ho : overlapping q = [])
    (hq : r.key &&& rowMask q = rowMatch q) : decode r = buildInstr r q :=
  decode_of_fits hq (by simp [ho])

/-- A row that shares a single key with one earlier row decodes every other key that fits it. -/
theorem decode_of_fits_ne {r : BusReq} {q a : Row} (ho : overlapping q = [a])
    (hm : rowMask a ||| rowMask q = BitVec.allOnes 19) (hq : r.key &&& rowMask q = rowMatch q)
    (hne : r.key ≠ rowMatch a ||| rowMatch q) : decode r = buildInstr r q := by
  refine decode_of_fits hq fun b hb hfb => ?_
  obtain rfl : b = a := by simpa [ho] using hb
  exact hne (eq_of_fits_both hfb hq hm)

end Sys2Proof

namespace Sys2Proof.Machine

open Sys2Proof.Safety

/-! ### What the rows answer -/

/-- A row that answers after at most a write to the registers (R112). -/
theorem exec_answered {i : Instr} {r : Reply} {s u : State} (h : exec i s = .next (setReply s.self r u))
    (hf : u.faults = s.faults) (hp : u.position = s.position) : Answered r s (setReply s.self r u) where
  frame := exec_frame h
  faults := hf
  position := hp
  reply := by simp

/-- A row that faults, its offset given as a number (R180). -/
theorem exec_faults_at {i : Instr} {q : Reason} {off : Offset} {n : Nat} {s : State}
    (h : exec i s = .next (raiseFault q (some off) s)) (hn : off.toNat = n) :
    ∃ t, exec i s = .next t ∧ FaultTaken q (some (BitVec.ofNat 16 n)) s t := by
  have hoff : BitVec.ofNat 16 n = off := by rw [← hn, BitVec.ofNat_toNat, BitVec.setWidth_eq]
  exact ⟨_, h, hoff ▸ raiseFault_taken q (some off) s⟩

theorem readMtimecmp_backed {i : BitVec 12} {c : CoreId} (h : i.toNat = c.val) (off : Offset) (s : State) :
    readMtimecmp i off s = setReply s.self (.data64 s.mtimecmp[c]) s := by
  rw [readMtimecmp, backed_eq_some.2 h]

theorem readMtimecmp_unbacked {i : BitVec 12} (h : Config.numCores ≤ i.toNat) (off : Offset) (s : State) :
    readMtimecmp i off s = raiseFault .unbackedIndex (some off) s := by
  rw [readMtimecmp, backed_eq_none.2 h]

theorem writeMtimecmp_backed {i : BitVec 12} {c : CoreId} (h : i.toNat = c.val) (off : Offset) (v : Dword)
    (s : State) : writeMtimecmp i off v s = setReply s.self .done (setMtimecmp c v s) := by
  rw [writeMtimecmp, backed_eq_some.2 h]

theorem writeMtimecmp_unbacked {i : BitVec 12} (h : Config.numCores ≤ i.toNat) (off : Offset) (v : Dword)
    (s : State) : writeMtimecmp i off v s = raiseFault .unbackedIndex (some off) s := by
  rw [writeMtimecmp, backed_eq_none.2 h]

/-- An index `{1, t}` is past the cores of the platform (R103, R105). -/
theorem numCores_le_timerIndexHi (t : BitVec 11) : Config.numCores ≤ (timerIndexHi t).toNat :=
  backed_eq_none.1 (backed_timerIndexHi t)

/-- MTIMECMP register `{1, t}` stands at the place of its index in the array (R53). -/
theorem timerHiOffset_toNat_index (t : BitVec 11) : (timerHiOffset t).toNat = 0x4000 + 8 * (2048 + t.toNat) := by
  rw [timerHiOffset_toNat]
  omega

/-! ### The MSIP array (R100, R101) -/

/-- Settles O9: the row shares the key 0x23FFC with the padding, and an index is backed or it faults. -/
theorem msipRead : Obligations.MsipRead := by
  refine ⟨fun K data hK hne => ?_, fun idx s c hc => ?_, fun idx s hi => ?_⟩
  · exact decode_of_fits_ne (q := .msipRd) rfl (by decide) hK hne
  · have h := exec_msipRd_backed hc s
    rw [← msipWord_eq_ite]
    exact ⟨_, h, exec_answered h rfl rfl, rfl, rfl⟩
  · exact exec_faults_at (exec_msipRd_unbacked hi s) (msipOffset_toNat idx)

/-- Settles O10: the row shares the key 0x63FFC with the padding; the stored bit is the level. -/
theorem msipWrite : Obligations.MsipWrite := by
  refine ⟨fun K data hK hne => ?_, fun idx v s c hc => ?_, fun idx v s hi => ?_⟩
  · exact decode_of_fits_ne (q := .msipWr) rfl (by decide) hK hne
  · have h := exec_msipWr_backed hc v s
    refine ⟨_, h, exec_answered h rfl rfl, ?_, fun d hd => ?_, rfl, ?_⟩
    · simp
    · simp [hd.symm]
    · simp [msipIrq]
  · exact exec_faults_at (exec_msipWr_unbacked hi v s) (msipOffset_toNat idx)

/-! ### The MTIMECMP array (R102 to R105) -/

/-- Settles O11: no earlier row shares a key with the row, and an index is backed or it faults. -/
theorem mtimecmpReadLo : Obligations.MtimecmpReadLo := by
  refine ⟨fun K data hK => ?_, fun i s c hc => ?_, fun i s hi => ?_⟩
  · exact decode_of_fits_alone (q := .mtimecmpRdLo) rfl hK
  · have h : exec (.mtimecmpRdLo i) s = .next (setReply s.self (.data64 s.mtimecmp[c]) s) :=
      congrArg Host.Outcome.next (readMtimecmp_backed ((timerIndexLo_toNat i).trans hc) _ s)
    exact ⟨_, h, exec_answered h rfl rfl, rfl, rfl⟩
  · rw [← timerIndexLo_toNat] at hi
    exact exec_faults_at (congrArg Host.Outcome.next (readMtimecmp_unbacked hi _ s)) (timerLoOffset_toNat i)

/-- Settles O13: no earlier row shares a key with the row; the level compares the stored value with MTIME. -/
theorem mtimecmpWriteLo : Obligations.MtimecmpWriteLo := by
  refine ⟨fun K data hK => ?_, fun i v s c hc => ?_, fun i v s hi => ?_⟩
  · exact decode_of_fits_alone (q := .mtimecmpWrLo) rfl hK
  · have h : exec (.mtimecmpWrLo i v) s = .next (setReply s.self .done (setMtimecmp c v s)) :=
      congrArg Host.Outcome.next (writeMtimecmp_backed ((timerIndexLo_toNat i).trans hc) _ v s)
    refine ⟨_, h, exec_answered h rfl rfl, ?_, fun d hd => ?_, rfl, ?_⟩
    · simp
    · simp [hd.symm]
    · simp [mtipIrq, BitVec.le_def]
  · rw [← timerIndexLo_toNat] at hi
    exact exec_faults_at (congrArg Host.Outcome.next (writeMtimecmp_unbacked hi _ v s)) (timerLoOffset_toNat i)

/-- Settles O12: the row shares the key of MTIME with `MTIME_RD`, and none of its indices is backed. -/
theorem mtimecmpReadHi : Obligations.MtimecmpReadHi := by
  refine ⟨fun K data hK hne => ?_, fun i s => ?_⟩
  · exact decode_of_fits_ne (q := .mtimecmpRdHi) rfl (by decide) hK hne
  · exact exec_faults_at (congrArg Host.Outcome.next (readMtimecmp_unbacked (numCores_le_timerIndexHi i) _ s))
      (timerHiOffset_toNat_index i)

/-- Settles O14: the row shares the key of MTIME with `MTIME_WR`, and none of its indices is backed. -/
theorem mtimecmpWriteHi : Obligations.MtimecmpWriteHi := by
  refine ⟨fun K data hK hne => ?_, fun i v s => ?_⟩
  · exact decode_of_fits_ne (q := .mtimecmpWrHi) rfl (by decide) hK hne
  · exact exec_faults_at (congrArg Host.Outcome.next (writeMtimecmp_unbacked (numCores_le_timerIndexHi i) _ v s))
      (timerHiOffset_toNat_index i)

/-! ### MTIME (R106, R107) -/

/-- Settles O15: the one key of the row is left to it, and MTIME is answered. -/
theorem mtimeRead : Obligations.MtimeRead :=
  ⟨fun _ => decode_of_fits_alone (q := .mtimeRd) rfl (show 0x3BFF8#19 &&& 0x7FFFF#19 = 0x3BFF8#19 by decide),
    fun s => ⟨_, rfl, exec_answered (i := .mtimeRd) (u := s) rfl rfl rfl, rfl, rfl⟩⟩

/-- Settles O16: the one key of the row is left to it, and the fault keeps MTIME. -/
theorem mtimeWrite : Obligations.MtimeWrite :=
  ⟨fun _ => decode_of_fits_alone (q := .mtimeWr) rfl (show 0x7BFF8#19 &&& 0x7FFFF#19 = 0x7BFF8#19 by decide),
    fun _ _ => ⟨_, rfl, raiseFault_taken _ _ _⟩⟩

/-! ### The accesses that select no register (R108 to R111) -/

/-- Settles O17: the row comes first, and it faults at the padding. -/
theorem padAccess : Obligations.PadAccess := by
  refine ⟨fun K data hK => ?_, fun w sz s => ⟨_, rfl, raiseFault_taken _ _ _⟩⟩
  rw [decode_of_fits_alone (q := .padAccess) rfl hK, rowOf_buildInstr]

/-- Settles O18: no earlier row shares a key with the row, and it faults at its offset. -/
theorem outsideAccess : Obligations.OutsideAccess :=
  ⟨fun _ _ hK => ⟨_, _, decode_of_fits_alone (q := .outside) rfl hK⟩,
    fun w sz low _ => exec_faults_at (i := .outside w sz low) rfl (outsideOffset_toNat low)⟩

/-- Settles O19: the row leaves its keys from 0xF000 on to `OUTSIDE`, and it faults at its offset. -/
theorem reservedAccess : Obligations.ReservedAccess := by
  refine ⟨fun K data hK hout => ⟨_, _, decode_of_fits (q := .rsvAccess) hK fun a ha => ?_⟩, fun w sz low s => ?_⟩
  · obtain rfl := List.mem_singleton.1 ha
    exact hout
  · exact exec_faults_at (i := .rsvAccess w sz low) rfl (rsvOffset_toNat low)

/-- Settles O20: the last row takes the whole offset from its key, and it faults there. -/
theorem badAccess : Obligations.BadAccess := by
  refine ⟨fun K data hrow => ⟨keyDir K, keySize K, ?_⟩, fun w sz off s => ⟨_, rfl, raiseFault_taken _ _ _⟩⟩
  rw [rowOf_decode] at hrow
  rw [decode, hrow, buildInstr, keyOff]

end Sys2Proof.Machine
end

section
/-! SUPPORT. The proofs of the statements about the host operations (41_ipi_operations.md), and the facts about their
steps that they need. -/

namespace Sys2Proof.Machine

open Sys2Proof.Safety

/-! ### What a step of a host operation leaves alone -/

/-- What a step of core `c` may change before it accesses the block, LSIE and the programs of the other cores kept. -/
structure Entered (c : CoreId) (s u : State) : Prop extends Prepared c s u where
  lsie : u.lsie = s.lsie
  programs : ∀ d : CoreId, d ≠ c → u.program[d] = s.program[d]

theorem entered_begun (c : CoreId) (rest : List Request) (s : State) : Entered c s (begun c rest s) :=
  ⟨Prepared.begin c rest s, rfl, fun d hd => by simp [begun, Ne.symm hd]⟩

theorem entered_setSelf (c : CoreId) (s : State) : Entered c s (setSelf c s) :=
  ⟨⟨rfl, rfl, rfl, rfl, rfl, rfl, rfl, rfl, rfl, rfl, rfl⟩, rfl, fun _ _ => rfl⟩

/-- What a step may change at its start includes `mapped` and the draw counter. -/
theorem Entered.of_mapped_draws {c : CoreId} {s u : State} (h : Entered c s u) (mapped : Bool) (draws : Nat) :
    Entered c s { u with mapped := mapped, draws := draws } :=
  ⟨⟨h.self, h.msip, h.mtimecmp, h.mtime, h.faults, h.position, h.core, h.platform, h.reply, h.schedule, h.history⟩,
    h.lsie, h.programs⟩

/-- A core that could step still can when its step has begun. -/
theorem Entered.able {c : CoreId} {s u : State} (h : Entered c s u) (ha : Able c s) : Able u.self u := by
  obtain rfl := h.self
  exact able_of_same ha h.faults h.core

theorem opFrame_trans {c : CoreId} {s t u : State} (h : OpFrame c s t) (h' : OpFrame c t u) : OpFrame c s u where
  mtimecmp := h'.mtimecmp.trans h.mtimecmp
  mtime := h'.mtime.trans h.mtime
  faults := h'.faults.trans h.faults
  core := h'.core.trans h.core
  platform := h'.platform.trans h.platform
  schedule := h'.schedule.trans h.schedule
  others d hd := by
    obtain ⟨hp, hr, hq⟩ := h.others d hd
    obtain ⟨hp', hr', hq'⟩ := h'.others d hd
    exact ⟨hp'.trans hp, hr'.trans hr, hq'.trans hq⟩

/-- A conclusion of core `c`'s step keeps the frame of the step. -/
theorem Concluded.opFrame {v t : State} (h : Concluded v t) : OpFrame v.self v t where
  mtimecmp := h.mtimecmp
  mtime := h.mtime
  faults := h.faults
  core := h.core
  platform := h.platform
  schedule := h.schedule
  others d hd := ⟨(h.others d hd).1, (h.others d hd).2, by rw [h.program]⟩

theorem Entered.opFrame {c : CoreId} {s u : State} (h : Entered c s u) : OpFrame c s u where
  mtimecmp := h.mtimecmp
  mtime := h.mtime
  faults := h.faults
  core := h.core
  platform := h.platform
  schedule := h.schedule
  others d hd := ⟨by rw [h.position], by rw [h.reply], h.programs d hd⟩

/-- The frame of a host operation says nothing of MSIP, LSIE and the order `<B`. -/
theorem opFrame_of_registers {c : CoreId} {s u : State} (msip lsie : Vector Bool Config.numCores)
    (history : List (CoreId × BusReq)) (h : OpFrame c s u) :
    OpFrame c s { u with msip := msip, lsie := lsie, history := history } :=
  ⟨h.mtimecmp, h.mtime, h.faults, h.core, h.platform, h.schedule, h.others⟩

/-! ### The steps that make no transaction, a read or a write -/

/-- From `s` to `t` core `c` ends its operation with the result `r` and makes no transaction. -/
structure EndsQuietly (c : CoreId) (r : Reply) (s t : State) : Prop where
  frame : OpFrame c s t
  position : t.position[c] = .idle
  reply : t.reply[c] = r
  msip : t.msip = s.msip
  lsie : t.lsie = s.lsie
  history : t.history = s.history

theorem Entered.endsQuietly {c : CoreId} {s u : State} (h : Entered c s u) (r : Reply) :
    EndsQuietly c r s (finish r u) := by
  obtain rfl := h.self
  exact ⟨opFrame_trans h.opFrame (Concluded.finish r u).opFrame, by simp, by simp, h.msip, h.lsie, h.history⟩

/-- From `s` to `t` core `c` makes one transaction `q`, which writes no register. -/
structure ReadsOnly (c : CoreId) (q : BusReq) (s t : State) : Prop where
  frame : OpFrame c s t
  msip : t.msip = s.msip
  lsie : t.lsie = s.lsie
  history : t.history = (c, q) :: s.history

/-- The read of a step of core `c` writes no register. -/
theorem Entered.readsOnly {c : CoreId} {s u : State} (h : Entered c s u) (q : BusReq) (r : Reply) :
    ReadsOnly c q s (setReply c r (logTransaction q u)) := by
  obtain rfl := h.self
  refine ⟨?_, h.msip, h.lsie, by simp [h.history]⟩
  exact opFrame_trans (opFrame_of_registers u.msip u.lsie _ h.opFrame)
    (Concluded.setReply r (logTransaction q u)).opFrame

theorem ReadsOnly.concluded {c : CoreId} {q : BusReq} {s v t : State} (h : ReadsOnly c q s v) (hv : v.self = c)
    (hc : Concluded v t) : ReadsOnly c q s t := by
  obtain rfl := hv
  exact ⟨opFrame_trans h.frame hc.opFrame, hc.msip.trans h.msip, hc.lsie.trans h.lsie, hc.history.trans h.history⟩

/-- From `s` to `t` core `c` makes one transaction `q`, which stores `b` in `MSIP[d]` and nothing else. -/
structure StoresBit (c d : CoreId) (b : Bool) (q : BusReq) (s t : State) : Prop where
  frame : OpFrame c s t
  bit : t.msip[d] = b
  others : ∀ e : CoreId, e ≠ d → t.msip[e] = s.msip[e]
  lsie : t.lsie = s.lsie
  history : t.history = (c, q) :: s.history

/-- The write of a step of core `c` stores its bit. -/
theorem Entered.storesBit {c : CoreId} {s u : State} (h : Entered c s u) (d : CoreId) (b : Bool) (q : BusReq) :
    StoresBit c d b q s (setReply c .done (setMsip d b (logTransaction q u))) := by
  obtain rfl := h.self
  refine ⟨?_, by simp, fun e he => by simp [h.msip, Ne.symm he], h.lsie, by simp [h.history]⟩
  exact opFrame_trans (opFrame_of_registers _ u.lsie _ h.opFrame)
    (Concluded.setReply .done (setMsip d b (logTransaction q u))).opFrame

theorem StoresBit.concluded {c d : CoreId} {b : Bool} {q : BusReq} {s v t : State} (h : StoresBit c d b q s v)
    (hv : v.self = c) (hc : Concluded v t) : StoresBit c d b q s t := by
  obtain rfl := hv
  exact ⟨opFrame_trans h.frame hc.opFrame, by simpa only [hc.msip] using h.bit, by simpa only [hc.msip] using h.others,
    hc.lsie.trans h.lsie, hc.history.trans h.history⟩

/-- A step whose write is followed by the end of the operation. -/
theorem Entered.storesBit_finish {c : CoreId} {s u : State} (h : Entered c s u) (d : CoreId) (b : Bool) (q : BusReq)
    (r : Reply) : StoresBit c d b q s (finish r (setReply c .done (setMsip d b (logTransaction q u)))) :=
  (h.storesBit d b q).concluded h.self (.finish r _)

@[simp] theorem begun_self (c : CoreId) (rest : List Request) (s : State) : (begun c rest s).self = c := rfl

@[simp] theorem begun_program (c : CoreId) (rest : List Request) (s : State) :
    (begun c rest s).program[c.val] = rest := by
  simp [begun]

/-- An index is unbacked or names a core (R35). -/
theorem unbacked_or_core (i : Nat) : Config.numCores ≤ i ∨ ∃ d : CoreId, i = d.val :=
  (Nat.lt_or_ge i Config.numCores).symm.imp_right fun h => ⟨⟨i, h⟩, rfl⟩

theorem ne_core_of_unbacked {i : Nat} (h : Config.numCores ≤ i) (d : CoreId) : i ≠ d.val := by
  rintro rfl
  exact not_numCores_le d h

/-! ### The raw accessors (R144, R145) -/

/-- What the raw accessors of MSIP register `i` have in common: their checks in the order of R141, then the
transaction `r`. -/
def rawAccess (i : Nat) (r : BusReq) (f : State → State) (u : State) : Host.Outcome State Fault Refusal :=
  if Config.maxCores ≤ i then .next (raiseFault .precondition none u)
  else if u.mapped then afterAccess (transact r u) f
  else .next (raiseFault .notMapped none u)

theorem opReadMsip_eq_rawAccess (i : Nat) (u : State) : opReadMsip i u =
    rawAccess i (rd32 (msipAt i)) (fun t => finish (.bit (repliedBit t)) t) u := rfl

theorem opWriteMsip_eq_rawAccess (i : Nat) (b : Bool) (u : State) : opWriteMsip i b u =
    rawAccess i (wr32 (msipAt i) ((BitVec.ofBool b).setWidth 32)) (finish .done) u := rfl

/-- A raw accessor takes the fault of the first check that fails, or that of its transaction, and `P` tells what it
does otherwise. -/
theorem rawAccess_answers {i : Nat} {r : BusReq} {f : State → State} {u : State} {P : CoreId → State → Prop}
    (hfault : Config.numCores ≤ i → i < 4095 →
      afterAccess (transact r u) f = .next (raiseFault .unbackedIndex (some (msipAt i)) (logTransaction r u)))
    (hback : ∀ d : CoreId, i = d.val → u.mapped = true → ∃ t, rawAccess i r f u = .next t ∧ P d t) :
    ∃ t, rawAccess i r f u = .next t ∧
      (4095 ≤ i → FaultTaken .precondition none u t) ∧
      (i < 4095 → u.mapped = false → FaultTaken .notMapped none u t) ∧
      (i < 4095 → u.mapped = true → Config.numCores ≤ i →
        FaultTaken .unbackedIndex (some (msipAt i)) (logTransaction r u) t) ∧
      (∀ d : CoreId, i = d.val → u.mapped = true → P d t) := by
  by_cases hmax : 4095 ≤ i
  · have hcore : ∀ d : CoreId, i ≠ d.val := fun d hd => by have := core_lt_maxCores d; omega
    exact ⟨_, if_pos hmax, fun _ => raiseFault_taken _ _ _, fun h => absurd hmax (Nat.not_le.2 h),
      fun h => absurd hmax (Nat.not_le.2 h), fun d hd => absurd hd (hcore d)⟩
  have hacc : rawAccess i r f u =
      if u.mapped then afterAccess (transact r u) f else .next (raiseFault .notMapped none u) := if_neg hmax
  cases hm : u.mapped with
  | false =>
    rw [hm, if_neg Bool.false_ne_true] at hacc
    exact ⟨_, hacc, fun h => absurd h hmax, fun _ _ => raiseFault_taken _ _ _, by simp, by simp⟩
  | true =>
    rw [hm, if_pos rfl] at hacc
    rcases unbacked_or_core i with hi | ⟨d, hd⟩
    · exact ⟨_, hacc.trans (hfault hi (Nat.lt_of_not_le hmax)), fun h => absurd h hmax, by simp,
        fun _ _ _ => raiseFault_taken _ _ _, fun d hd => absurd hd (ne_core_of_unbacked hi d)⟩
    · obtain ⟨t, ht, hP⟩ := hback d hd hm
      refine ⟨t, ht, fun h => absurd h hmax, by simp, fun _ _ hi => absurd hd (ne_core_of_unbacked hi d),
        fun e he _ => ?_⟩
      obtain rfl : d = e := Fin.ext (hd.symm.trans he)
      exact hP

/-- `write_msip(d)` of a backed core, with the window mapped (R145). -/
theorem runMove_writeMsip {c d : CoreId} {b : Bool} {rest : List Request} {s : State}
    (h : Issues c (.op (.writeMsip d.val b)) rest s) (hm : s.mapped = true) :
    runMove (.core c) s = .next (finish .done (setReply c .done
      (setMsip d b (logTransaction (wr32 (msipAt d.val) ((BitVec.ofBool b).setWidth 32)) (begun c rest s))))) := by
  have hb : ((BitVec.ofBool b).setWidth 32)[0] = b := by cases b <;> rfl
  rw [runMove_of_issues h, issue, startOp, opWriteMsip, if_neg (Nat.not_le.2 (core_lt_maxCores d)), begun_mapped,
    if_pos hm, afterWrite_backed (s := begun c rest s) h.able.mode h.able.running, hb]
  rfl

/-- Settles O29: the checks of a raw accessor, then the read of the register. -/
theorem readMsip : Obligations.ReadMsip := by
  intro c i rest s h
  have hu := entered_begun c rest s
  rw [runMove_of_issues h, issue, startOp, opReadMsip_eq_rawAccess]
  refine rawAccess_answers (fun hi hi' => afterRead_unbacked (hu.able h.able).mode hi hi' _) fun d hd hm => ?_
  subst hd
  have hr := (hu.readsOnly (rd32 (msipAt d.val)) (.data32 (msipWord d s))).concluded hu.self
    (.finish (.bit s.msip[d]) _)
  exact ⟨_, (runMove_of_issues h).symm.trans (runMove_readMsip h hm), hr.frame, begun_program c rest s, by simp,
    by simp, hr.msip, hr.lsie, rfl, hr.history⟩

/-- Settles O30: the checks of a raw accessor, then the write of the register. -/
theorem writeMsip : Obligations.WriteMsip := by
  intro c i b rest s h
  have hu := entered_begun c rest s
  have hw : (if b then 1#32 else 0#32) = (BitVec.ofBool b).setWidth 32 := by cases b <;> rfl
  rw [runMove_of_issues h, hw, issue, startOp, opWriteMsip_eq_rawAccess]
  refine rawAccess_answers (fun hi hi' => afterWrite_unbacked (hu.able h.able).mode hi hi' _ _) fun d hd hm => ?_
  subst hd
  have hst := hu.storesBit_finish d b (wr32 (msipAt d.val) ((BitVec.ofBool b).setWidth 32)) .done
  exact ⟨_, (runMove_of_issues h).symm.trans (runMove_writeMsip h hm), hst.frame, begun_program c rest s, by simp,
    by simp, hst.bit, hst.others, hst.lsie, rfl, hst.history⟩

/-! ### `send` (R156, R157) -/

theorem runMove_send_outOfRange {c : CoreId} {i : Nat} {rest : List Request} {s : State}
    (h : Issues c (.op (.send i)) rest s) (hi : Config.numCores ≤ i) :
    runMove (.core c) s = .next (finish (.send .outOfRange) (begun c rest s)) := by
  rw [runMove_of_issues h, issue, startOp, opSend, if_pos hi]

theorem runMove_send_unmapped {c d : CoreId} {rest : List Request} {s : State}
    (h : Issues c (.op (.send d.val)) rest s) (hm : s.mapped = false) :
    runMove (.core c) s = .next (finish (.send .accessFailure) (begun c rest s)) := by
  rw [runMove_of_issues h, issue, startOp, opSend, if_neg (not_numCores_le d), begun_mapped, hm,
    if_neg Bool.false_ne_true]

/-- Settles O31: the range check, then the mapping check, then the one write. -/
theorem send : Obligations.Send := by
  intro c i rest s h
  have hu := entered_begun c rest s
  rcases unbacked_or_core i with hi | ⟨d, rfl⟩
  · have hq := hu.endsQuietly (.send .outOfRange)
    exact ⟨_, runMove_send_outOfRange h hi, hq.frame, begun_program c rest s, hq.position, hq.lsie, rfl,
      fun _ => ⟨hq.reply, hq.msip, hq.history⟩, fun hlt => absurd hi (Nat.not_le.2 hlt),
      fun d hd => absurd hd (ne_core_of_unbacked hi d)⟩
  cases hm : s.mapped with
  | false =>
    have hq := hu.endsQuietly (.send .accessFailure)
    exact ⟨_, runMove_send_unmapped h hm, hq.frame, begun_program c rest s, hq.position, hq.lsie, hm,
      fun hi => absurd hi (not_numCores_le d), fun _ _ => ⟨hq.reply, hq.msip, hq.history⟩, by simp⟩
  | true =>
    have hst := hu.storesBit_finish d true (wr32 (msipAt d.val) 1#32) (.send .ok)
    refine ⟨_, runMove_send h hm, hst.frame, begun_program c rest s, by simp, hst.lsie, hm,
      fun hi => absurd hi (not_numCores_le d), by simp, fun e he _ => ?_⟩
    obtain rfl : d = e := Fin.ext he
    exact ⟨by simp, hst.bit, hst.others, hst.history⟩

/-! ### `clear` (R158 to R160) -/

theorem runMove_clear_outOfRange {c : CoreId} {i : Nat} {rest : List Request} {s : State}
    (h : Issues c (.op (.clear i)) rest s) (hi : Config.numCores ≤ i) :
    runMove (.core c) s = .next (finish (.clear .outOfRange) (begun c rest s)) := by
  rw [runMove_of_issues h, issue, startOp, opClear, if_pos hi]

theorem runMove_clear_unmapped {c d : CoreId} {rest : List Request} {s : State}
    (h : Issues c (.op (.clear d.val)) rest s) (hm : s.mapped = false) :
    runMove (.core c) s = .next (finish (.clear .accessFailure) (begun c rest s)) := by
  rw [runMove_of_issues h, issue, startOp, opClear, if_neg (not_numCores_le d), begun_mapped, hm,
    if_neg Bool.false_ne_true]

/-- `clear`, step 2, after a teardown (R147). -/
theorem runMove_clearWrite_unmapped {c : CoreId} {i : Nat} {b : Bool} {s : State} (h : Able c s)
    (hp : s.position[c] = .clearWrite i b) (hm : s.mapped = false) :
    runMove (.core c) s = .next (finish (.clear .accessFailure) (setSelf c s)) := by
  rw [moveCore_advance h.running h.awake, advance_clearWrite hp, opClearWrite, setSelf_mapped, hm,
    if_neg Bool.false_ne_true]

/-- Settles O32: the range check, then the mapping check, then the read, whose bit the position keeps. -/
theorem clearReads : Obligations.ClearReads := by
  intro c i rest s h
  have hu := entered_begun c rest s
  rcases unbacked_or_core i with hi | ⟨d, rfl⟩
  · have hq := hu.endsQuietly (.clear .outOfRange)
    exact ⟨_, runMove_clear_outOfRange h hi, hq.frame, begun_program c rest s, hq.msip, hq.lsie, rfl,
      fun _ => ⟨hq.reply, hq.position, hq.history⟩, fun hlt => absurd hi (Nat.not_le.2 hlt),
      fun d hd => absurd hd (ne_core_of_unbacked hi d)⟩
  cases hm : s.mapped with
  | false =>
    have hq := hu.endsQuietly (.clear .accessFailure)
    exact ⟨_, runMove_clear_unmapped h hm, hq.frame, begun_program c rest s, hq.msip, hq.lsie, hm,
      fun hi => absurd hi (not_numCores_le d), fun _ _ => ⟨hq.reply, hq.position, hq.history⟩, by simp⟩
  | true =>
    have hr := (hu.readsOnly (rd32 (msipAt d.val)) (.data32 (msipWord d s))).concluded hu.self
      (.setPosition (.clearWrite d.val s.msip[d]) _)
    refine ⟨_, runMove_clear h hm, hr.frame, begun_program c rest s, hr.msip, hr.lsie, hm,
      fun hi => absurd hi (not_numCores_le d), by simp, fun e he _ => ?_⟩
    obtain rfl : d = e := Fin.ext he
    exact ⟨by simp, hr.history⟩

/-- Settles O33: the mapping check, then the write of 0 and the result that step 1 has fixed. -/
theorem clearWrites : Obligations.ClearWrites := by
  intro c d b s h hp
  have hu := entered_setSelf c s
  cases hm : s.mapped with
  | false =>
    have hq := hu.endsQuietly (.clear .accessFailure)
    exact ⟨_, runMove_clearWrite_unmapped h hp hm, hq.frame, rfl, hq.position, hq.lsie, hm,
      fun _ => ⟨hq.reply, hq.msip, hq.history⟩, by simp⟩
  | true =>
    have hst := hu.storesBit_finish d false (wr32 (msipAt d.val) 0#32) (.clear (clearResult b))
    exact ⟨_, runMove_clearWrite h hp hm, hst.frame, rfl, by simp, hst.lsie, hm, by simp,
      fun _ => ⟨by simp [clearResult], hst.bit, hst.others, hst.history⟩⟩

/-- Both steps of `clear(d)` in a row lead back to a core that can step, with the rest of its program to come. -/
theorem clear_both {c d : CoreId} {rest : List Request} {s : State} (h : Issues c (.op (.clear d.val)) rest s)
    (hm : s.mapped = true) :
    ∃ t u, runMove (.core c) s = .next t ∧ runMove (.core c) t = .next u ∧
      u.reply[c] = .clear (if s.msip[d] = true then .pendingCleared else .nothingPending) ∧ u.msip[d] = false ∧
      u.mapped = true ∧ Able c u ∧ u.position[c] = .idle ∧ u.program[c] = rest := by
  obtain ⟨t, ht, hft, hpt, -, -, hmt, -, -, hd⟩ := clearReads c d.val rest s h
  obtain ⟨hpos, -⟩ := hd d rfl hm
  have hat : Able c t := able_of_same h.able hft.faults hft.core
  obtain ⟨u, hu, hfu, hpu, hidle, -, hmu, -, hclear⟩ := clearWrites c d s.msip[d] t hat hpos
  obtain ⟨hr, hbit, -⟩ := hclear (hmt.trans hm)
  exact ⟨t, u, ht, hu, hr, hbit, hmu.trans (hmt.trans hm), able_of_same hat hfu.faults hfu.core, hidle,
    by rw [hpu, hpt]⟩

/-- Settles O40: the second call starts where the first has left the bit 0. -/
theorem clearTwice : Obligations.ClearTwice := by
  intro c d rest s h hm
  obtain ⟨t, u, ht, hu, hr, hbit, hmu, hau, hidle, hprog⟩ := clear_both h hm
  obtain ⟨v, w, hv, hw, hr', hbit', -⟩ := clear_both ⟨hau, hidle, hprog⟩ hmu
  exact ⟨t, u, v, w, ht, hu, hv, hw, hr, hbit, by simpa [hbit] using hr', hbit'⟩

/-! ### `enable` and `disable` (R154, R155) -/

/-- `enable` and `disable` where the mechanism is available: LSIE of the caller is written. -/
theorem runMove_mask {c : CoreId} {on : Bool} {rest : List Request} {s : State}
    (h : Issues c (.op (if on then .enable else .disable)) rest s) (ha : s.platform.enableAvailable[c] = true) :
    runMove (.core c) s = .next (finish (.mask .ok) (setLsie c on (begun c rest s))) := by
  cases on with
  | true => exact runMove_enable h ha
  | false => exact runMove_disable h ha

theorem runMove_mask_unavailable {c : CoreId} {on : Bool} {rest : List Request} {s : State}
    (h : Issues c (.op (if on then .enable else .disable)) rest s) (ha : s.platform.enableAvailable[c] = false) :
    runMove (.core c) s = .next (finish (.mask .unavailableMechanism) (begun c rest s)) := by
  have hne : ¬(begun c rest s).platform.enableAvailable[(begun c rest s).self] = true := by
    simpa [begun] using ha
  rw [runMove_of_issues h, issue]
  cases on with
  | true => exact if_neg hne
  | false => exact if_neg hne

/-- `TakeMSI(c)` is enabled where the core runs, its level and its enable are 1, and it accepts (R192). -/
theorem takeMsi_answers_iff {c : CoreId} {s : State} : (∃ t, runMove (.takeMsi c) s = .next t) ↔
    stopped c s = false ∧ s.msip[c] = true ∧ s.lsie[c] = true ∧ s.core[c].accepts = true := by
  have he : msiEnabled c s = true ↔ s.msip[c] = true ∧ s.lsie[c] = true ∧ s.core[c].accepts = true := by
    simp [msiEnabled, msipIrq, and_assoc]
  simp only [runMove, moveTakeMsi, ifRunning_eq_next, exists_and_left, ← he]
  cases msiEnabled c s <;> simp

/-- Settles O38: LSIE of the caller is all that the step writes, so the interrupt is deliverable exactly when the
written enable is 1. -/
theorem enableDisable : Obligations.EnableDisable := by
  intro c on rest s h
  have hu := entered_begun c rest s
  cases ha : s.platform.enableAvailable[c] with
  | false =>
    have hq := hu.endsQuietly (.mask .unavailableMechanism)
    exact ⟨_, runMove_mask_unavailable h ha, hq.frame, begun_program c rest s, hq.position, hq.msip, rfl, hq.history,
      by simp, fun _ => ⟨hq.reply, hq.lsie⟩⟩
  | true =>
    have hf : OpFrame c s (setLsie c on (begun c rest s)) := opFrame_of_registers s.msip _ s.history hu.opFrame
    refine ⟨_, runMove_mask h ha, opFrame_trans hf (Concluded.finish _ (setLsie c on (begun c rest s))).opFrame,
      begun_program c rest s, by simp, rfl, rfl, rfl, fun _ => ⟨by simp, by simp, fun d hd => ?_, fun hb hacc => ?_⟩,
      by simp⟩
    · simp [Ne.symm hd, begun]
    · rw [takeMsi_answers_iff]
      simpa [begun, hb, h.able.running] using fun _ => hacc

/-! ### `init` (R149 to R153) -/

/-- The checks of `init` on this platform, whose core count is in range (R150, R151, R153). -/
theorem runMove_init {c : CoreId} {rest : List Request} {s : State} (h : Issues c (.op .init) rest s) :
    runMove (.core c) s =
      if s.mapped then opInitClear (drawnIndices s.draws) (addDraws Config.numCores (begun c rest s))
      else if s.platform.mapAvailable then opInitClear [core0.val, core1.val] (setMapped true (begun c rest s))
      else .next (finish (.init .configurationError) (begun c rest s)) := by
  have hn : ¬tooManyCores Config.numCores = true := by decide
  rw [runMove_of_issues h, issue, startOp, opInit, if_neg hn]
  rfl

/-- A clearing step of `init`, with the window mapped: the next index is cleared, and `init` ends or goes on. -/
theorem opInitClear_mapped {c d : CoreId} {more : List Nat} {s u : State} (hu : Entered c s u) (ha : Able c s)
    (hm : u.mapped = true) :
    ∃ t, opInitClear (d.val :: more) u = .next t ∧ StoresBit c d false (wr32 (msipAt d.val) 0#32) s t ∧
      t.program = u.program ∧ t.mapped = true ∧
      (more = [] → t.position[c] = .idle ∧ t.reply[c] = .init .ok) ∧
      (more ≠ [] → t.position[c] = .initClear more) := by
  obtain rfl := hu.self
  have hst := hu.storesBit d false (wr32 (msipAt d.val) 0#32)
  rw [opInitClear, if_pos hm, afterWrite_backed (hu.able ha).mode (hu.able ha).running]
  cases more with
  | nil => exact ⟨_, rfl, hst.concluded rfl (.finish _ _), rfl, hm, by simp, by simp⟩
  | cons i more => exact ⟨_, rfl, hst.concluded rfl (.setPosition _ _), rfl, hm, by simp, by simp⟩

theorem runMove_initClear_unmapped {c : CoreId} {i : Nat} {more : List Nat} {s : State} (h : Able c s)
    (hp : s.position[c] = .initClear (i :: more)) (hm : s.mapped = false) :
    runMove (.core c) s = .next (finish (.init .configurationError) (setSelf c s)) := by
  rw [moveCore_advance h.running h.awake, advance_initClear hp, opInitClear, setSelf_mapped, hm,
    if_neg Bool.false_ne_true]

/-- Settles O37: the mapping check, then the clearing write. -/
theorem initContinues : Obligations.InitContinues := by
  intro c d more s h hp
  have hu := entered_setSelf c s
  cases hm : s.mapped with
  | false =>
    have hq := hu.endsQuietly (.init .configurationError)
    exact ⟨_, runMove_initClear_unmapped h hp hm, hq.frame, rfl, hq.lsie, hm,
      fun _ => ⟨hq.position, hq.reply, hq.msip, hq.history⟩, by simp⟩
  | true =>
    obtain ⟨t, ht, hst, hprog, hmt, hlast, hmore⟩ := opInitClear_mapped (d := d) (more := more) hu h hm
    refine ⟨t, ?_, hst.frame, hprog, hst.lsie, hmt, by simp,
      fun _ => ⟨hst.bit, hst.others, hst.history, hlast, hmore⟩⟩
    rw [moveCore_advance h.running h.awake, advance_initClear hp, ht]

/-- Settles O35: the bound of R150, and the failed mapping of R151, where the operation ends at once. -/
theorem initFails : Obligations.InitFails := by
  refine ⟨fun n => decide_eq_true_iff, fun c rest s h hm hav => ?_⟩
  have hq := (entered_begun c rest s).endsQuietly (.init .configurationError)
  refine ⟨_, ?_, hq.frame, hq.position, begun_program c rest s, hq.reply, hm, hq.msip, hq.lsie, hq.history⟩
  rw [runMove_init h, hm, hav, if_neg Bool.false_ne_true, if_neg Bool.false_ne_true]

/-- Settles O34: `init` maps and clears core 0's bit, and goes on with core 1's. -/
theorem initFirstCall : Obligations.InitFirstCall := by
  intro c rest s h hm hav
  have hu : Entered c s (setMapped true (begun c rest s)) := (entered_begun c rest s).of_mapped_draws true _
  obtain ⟨t, ht, hst, hpt, hmt, -, hmore⟩ := opInitClear_mapped (d := core0) (more := [core1.val]) hu h.able rfl
  have hpos : t.position[c] = .initClear [core1.val] := hmore (List.cons_ne_nil _ _)
  have hat : Able c t := able_of_same h.able hst.frame.faults hst.frame.core
  obtain ⟨u, hu', hfu, hpu, hlu, hmu, -, hclear⟩ := initContinues c core1 [] t hat hpos
  obtain ⟨hbit, hothers, hhist, hlast, -⟩ := hclear hmt
  obtain ⟨hidle, hreply⟩ := hlast rfl
  refine ⟨t, u, ?_, hu', hmt, hpos, hst.bit, hst.others core1 (by decide), opFrame_trans hst.frame hfu, hidle, ?_,
    hreply, hmu.trans hmt, fun d => ?_, hlu.trans hst.lsie, by rw [hhist, hst.history]; rfl⟩
  · rw [runMove_init h, hm, hav, if_neg Bool.false_ne_true, if_pos rfl, ht]
  · rw [hpu, hpt]
    exact begun_program c rest s
  · by_cases hd : d = core1
    · exact hd ▸ hbit
    · obtain rfl : d = core0 := by revert d; decide
      exact (hothers core0 hd).trans hst.bit

/-- What a later `init` has still to clear after its first index: higher indices, all backed (R153). -/
theorem drawnIndices_cons {n i : Nat} {more : List Nat} (h : drawnIndices n = i :: more) :
    i < Config.numCores ∧ ∀ j ∈ more, i < j ∧ j < Config.numCores := by
  have hasc : (i :: more).Pairwise (· < ·) := h ▸ List.pairwise_lt_range.filter _
  have hb : ∀ j ∈ i :: more, j < Config.numCores := fun j hj =>
    List.mem_range.1 (List.mem_of_mem_filter (h ▸ hj))
  exact ⟨hb i List.mem_cons_self, fun j hj => ⟨List.rel_of_pairwise_cons hasc hj, hb j (List.mem_cons_of_mem i hj)⟩⟩

/-- Settles O36: the drawn indices ascend, so the step clears the least of them, or none is drawn. -/
theorem initLaterCall : Obligations.InitLaterCall := by
  intro c rest s h hm
  have hu : Entered c s (addDraws Config.numCores (begun c rest s)) := (entered_begun c rest s).of_mapped_draws _ _
  rw [runMove_init h, if_pos hm]
  cases hd : drawnIndices s.draws with
  | nil =>
    have hq := hu.endsQuietly (.init .ok)
    exact ⟨_, rfl, hq.frame, begun_program c rest s, hm, hq.lsie, .inl ⟨hq.msip, hq.history, hq.position, hq.reply⟩⟩
  | cons i more =>
    obtain ⟨hi, hmore⟩ := drawnIndices_cons hd
    obtain ⟨t, ht, hst, hpt, hmt, hlast, hnext⟩ := opInitClear_mapped (d := ⟨i, hi⟩) (more := more) hu h.able hm
    refine ⟨t, ht, hst.frame, ?_, hmt, hst.lsie, .inr ⟨⟨i, hi⟩, hst.bit, hst.others, hst.history, ?_⟩⟩
    · rw [hpt]
      exact begun_program c rest s
    · by_cases hnil : more = []
      · exact .inl (hlast hnil)
      · exact .inr ⟨more, hnext hnil, hnil, hmore⟩

/-! ### A core's step always answers (R142) -/

/-- A check with two outcomes answers where both do. -/
theorem next_of_ite {p : Prop} [Decidable p] {a b : Host.Outcome State Fault Refusal} (ha : ∃ t, a = .next t)
    (hb : ∃ t, b = .next t) : ∃ t, (if p then a else b) = .next t := by
  split
  · exact ha
  · exact hb

section

variable {u : State} (hm : u.core[u.self].mode = .machine)
include hm

theorem transact_next (r : BusReq) : ∃ t, transact r u = .next t :=
  transact_machine hm ▸ exec_next _ _

theorem afterAccess_next (r : BusReq) (f : State → State) : ∃ t, afterAccess (transact r u) f = .next t := by
  obtain ⟨v, hv⟩ := transact_next hm r
  exact ⟨_, afterAccess_eq_next.2 ⟨v, hv, rfl⟩⟩

theorem opInitClear_next (todo : List Nat) : ∃ t, opInitClear todo u = .next t := by
  cases todo with
  | nil => exact ⟨_, rfl⟩
  | cons i more => exact next_of_ite (afterAccess_next hm _ _) ⟨_, rfl⟩

theorem opClearWrite_next (i : Nat) (b : Bool) : ∃ t, opClearWrite i b u = .next t :=
  next_of_ite (afterAccess_next hm _ _) ⟨_, rfl⟩

theorem startOp_next (o : HostOp) : ∃ t, startOp o u = .next t := by
  cases o with
  | readMsip | writeMsip | send | clear =>
    exact next_of_ite ⟨_, rfl⟩ (next_of_ite (afterAccess_next hm _ _) ⟨_, rfl⟩)
  | enable | disable => exact next_of_ite ⟨_, rfl⟩ ⟨_, rfl⟩
  | init =>
    rw [startOp, opInit]
    refine next_of_ite ⟨_, rfl⟩ (next_of_ite ?_ (next_of_ite ?_ ⟨_, rfl⟩))
    · exact opInitClear_next (u := addDraws Config.numCores u) hm _
    · exact opInitClear_next (u := setMapped true u) hm _

theorem boundaryFault_next (q : Reason) (a : Nat) : ∃ t, boundaryFault q a u = .next t := by
  cases h : windowOffset u.platform.base a with
  | none => exact ⟨_, by rw [boundaryFault, h, outsideWindow]⟩
  | some off => exact ⟨_, boundaryFault_machine h hm⟩

theorem issue_next (q : Request) : ∃ t, issue q u = .next t := by
  cases q with
  | bus r => exact transact_next hm r
  | atomic a => exact boundaryFault_next hm _ a
  | fetch a => exact boundaryFault_next hm _ a
  | op o => exact startOp_next hm o
  | mem w sz a d =>
    rw [issue, memAccess]
    split
    · exact ⟨_, rfl⟩
    · exact transact_next hm _

end

/-- Settles O56: each request and each position inside an operation answers in machine mode. -/
theorem coreStepAnswers : Obligations.CoreStepAnswers := by
  intro c s ha hwork
  rw [moveCore_advance ha.running ha.awake]
  cases hp : s.position[c] with
  | initClear todo => exact advance_initClear hp ▸ opInitClear_next (u := setSelf c s) ha.mode todo
  | clearWrite i b => exact advance_clearWrite hp ▸ opClearWrite_next (u := setSelf c s) ha.mode i b
  | idle =>
    cases hq : s.program[c] with
    | nil => simp [hp, hq] at hwork
    | cons q rest => exact advance_idle hp hq ▸ issue_next (u := setProgram c rest (setSelf c s)) ha.mode q

end Sys2Proof.Machine
end

section
/-! SUPPORT. The proofs of the statements about the faults, the interrupts and the timer (60_exceptions.md), and the
facts about the events that they need. -/

namespace Sys2Proof.Machine

open Sys2Proof.Safety

/-! ### A stopped agent (R180) -/

theorem ifRunning_stopped {c : CoreId} {s : State} (h : stopped c s = true)
    (o : Host.Outcome State Fault Refusal) : ifRunning c s o = .fault (.agentStopped c) := if_pos h

/-- Settles O54: each of the moves asks first whether the core runs. -/
theorem stoppedAgentStays : Obligations.StoppedAgentStays := fun _ _ h =>
  ⟨ifRunning_stopped h _, ifRunning_stopped h _, ifRunning_stopped h _, ifRunning_stopped h _⟩

/-! ### The events with a guard (R192, R205, R209) -/

/-- An event of a core with the guard `g` leads to `u` where the core runs and `g` holds, and nowhere else. -/
theorem guarded_eq_next {c : CoreId} {s t u : State} {g : Bool} {e : Fault} :
    ifRunning c s (if g then .next u else .fault e) = .next t ↔ (stopped c s = false ∧ g = true) ∧ t = u := by
  rw [ifRunning_eq_next, and_assoc, eq_comm (a := t)]
  cases g <;> simp

theorem takeMsi_eq_next {c : CoreId} {s t : State} : runMove (.takeMsi c) s = .next t ↔
    (stopped c s = false ∧ msiEnabled c s = true) ∧ t = enterHandler .msi c s := guarded_eq_next

theorem takeMti_eq_next {c : CoreId} {s t : State} : runMove (.takeMti c) s = .next t ↔
    (stopped c s = false ∧ mtiEnabled c s = true) ∧ t = enterHandler .mti c s := guarded_eq_next

theorem wake_eq_next {c : CoreId} {s t : State} : runMove (.wake c) s = .next t ↔
    (stopped c s = false ∧ wakeEnabled c s = true) ∧ t = setCore c { s.core[c] with waiting := false } s :=
  guarded_eq_next

/-- The timer level compares unsigned (R205). -/
theorem mtiEnabled_iff {c : CoreId} {s : State} : mtiEnabled c s = true ↔
    s.mtimecmp[c] ≤ s.mtime ∧ s.core[c].mtie = true ∧ s.core[c].accepts = true := by
  simp [mtiEnabled, mtipIrq, BitVec.le_def, and_assoc]

theorem wakeEnabled_iff {c : CoreId} {s : State} : wakeEnabled c s = true ↔
    s.core[c].waiting = true ∧ s.msip[c] = true ∧ s.core[c].wakes = true := by
  simp [wakeEnabled, msipIrq, and_assoc]

/-- The entry into a handler changes the core's own state alone, and no state of the block (R192, R193). -/
theorem enterHandler_keeps_block (q : Irq) (c : CoreId) (s : State) :
    (enterHandler q c s).msip = s.msip ∧ (enterHandler q c s).mtimecmp = s.mtimecmp ∧
      (enterHandler q c s).mtime = s.mtime ∧ (enterHandler q c s).lsie = s.lsie ∧
      (enterHandler q c s).mapped = s.mapped ∧ (enterHandler q c s).faults = s.faults ∧
      (enterHandler q c s).position = s.position ∧ (enterHandler q c s).history = s.history ∧
      (enterHandler q c s).core[c].handler = some q ∧
      ∀ d : CoreId, d ≠ c → (enterHandler q c s).core[d] = s.core[d] :=
  ⟨rfl, rfl, rfl, rfl, rfl, rfl, rfl, rfl, by simp, fun d hd => by simp [Ne.symm hd]⟩

/-- Settles O47: the guard of R192, and the entry into the handler. -/
theorem takeMsi : Obligations.TakeMsi := by
  refine fun c s => ⟨takeMsi_answers_iff, fun t h => ?_⟩
  obtain ⟨-, rfl⟩ := takeMsi_eq_next.1 h
  exact enterHandler_keeps_block .msi c s

/-- Settles O48: the guard of R205, and the entry into the handler. -/
theorem takeMti : Obligations.TakeMti := by
  refine fun c s => ⟨?_, fun t h => ?_⟩
  · simp only [takeMti_eq_next, exists_and_left, exists_eq, and_true, mtiEnabled_iff]
  · obtain ⟨-, rfl⟩ := takeMti_eq_next.1 h
    exact enterHandler_keeps_block .mti c s

/-- Settles O49: the guard of R209, and the end of the wait state, which is the core's own. -/
theorem wakeStep : Obligations.WakeStep := by
  refine fun c s => ⟨?_, fun t h => ?_⟩
  · simp only [wake_eq_next, exists_and_left, exists_eq, and_true, wakeEnabled_iff]
  · obtain ⟨-, rfl⟩ := wake_eq_next.1 h
    exact ⟨by simp, fun d hd => by simp [Ne.symm hd], rfl, rfl, rfl, rfl, rfl, rfl, rfl⟩

/-! ### Masking (R188) -/

/-- No software interrupt is delivered while LSIE is 0 (R188, R192). -/
theorem takeMsi_ne_next_of_masked {c : CoreId} {s : State} (h : s.lsie[c] = false) (t : State) :
    runMove (.takeMsi c) s ≠ .next t := by
  intro ht
  obtain ⟨-, -, hl, -⟩ := takeMsi_answers_iff.1 ⟨t, ht⟩
  simp [h] at hl

/-- Settles O41: a bit changes with a write in the order alone, an interrupt needs its enable, `disable` writes LSIE
alone, and `send` the bit of its target. -/
theorem maskingKeepsPending : Obligations.MaskingKeepsPending := by
  refine ⟨fun c m s t _ h hn => (runMove_orderStep h).msip_of_noMsipWrite hn,
    fun c s t hl => takeMsi_ne_next_of_masked hl t, fun c rest s h => ?_, fun c d rest s h hm hl => ?_⟩
  · obtain ⟨t, ht, -, -, -, hmsip, -⟩ := enableDisable c false rest s h
    exact ⟨t, ht, hmsip⟩
  · obtain ⟨t, ht, -, -, -, hlsie, -, -, -, hback⟩ := send c d.val rest s h
    obtain ⟨-, hbit, -⟩ := hback d rfl hm
    have hl' : t.lsie[d] = false := by simpa only [hlsie] using hl
    exact ⟨t, ht, hbit, hl', takeMsi_ne_next_of_masked hl'⟩

/-! ### Tick in a fair run (R206, R207) -/

/-- `Tick` adds 1 to MTIME (R206). -/
theorem mtime_of_tick {s t : State} (h : runMove .tick s = .next t) : t.mtime = s.mtime + 1#64 := by
  cases h
  rfl

/-- In a run whose `Tick` comes after `d` more moves, MTIME goes on by 1: no move before the first `Tick` writes it. -/
theorem mtime_succ_of_tick_after (r : Run) (d n : Nat) (h : r.moves (n + d) = .tick) :
    ∃ m, (r.states m).mtime = (r.states n).mtime + 1#64 := by
  induction d generalizing n with
  | zero => exact ⟨n + 1, mtime_of_tick (h ▸ r.steps n)⟩
  | succ d ih =>
    by_cases ht : r.moves n = .tick
    · exact ⟨n + 1, mtime_of_tick (ht ▸ r.steps n)⟩
    · have hkeep : (r.states (n + 1)).mtime = (r.states n).mtime := onlyTickCounts.2 _ _ _ ht (r.steps n)
      rw [← hkeep]
      exact ih (n + 1) (by rwa [Nat.add_right_comm, Nat.add_assoc])

/-- In a fair run MTIME gets `k` past its first value, modulo 2^64, for every `k`. -/
theorem mtime_add_of_tickFair {r : Run} (hr : TickFair r) (k : Nat) :
    ∃ m, (r.states m).mtime = (r.states 0).mtime + BitVec.ofNat 64 k := by
  induction k with
  | zero => exact ⟨0, by simp⟩
  | succ k ih =>
    obtain ⟨n, hn⟩ := ih
    obtain ⟨p, hp, htick⟩ := hr n
    obtain ⟨d, rfl⟩ := Nat.exists_eq_add_of_le hp
    obtain ⟨m, hm⟩ := mtime_succ_of_tick_after r d n htick
    exact ⟨m, by rw [hm, hn, BitVec.add_assoc, ← BitVec.ofNat_add]⟩

/-- Settles O53: a value `v` comes after as many `Tick`s as it is away from the first value, modulo 2^64. -/
theorem fairTickReaches : Obligations.FairTickReaches := by
  intro r hr v
  obtain ⟨m, hm⟩ := mtime_add_of_tickFair hr (v - (r.states 0).mtime).toNat
  exact ⟨m, by rw [hm, BitVec.ofNat_toNat, BitVec.setWidth_eq, BitVec.add_comm, BitVec.sub_add_cancel]⟩

end Sys2Proof.Machine
end

section
/-! SUPPORT. The proofs of the statements about reset and the hazards (70_reset_and_hazards.md), and the facts about
the reset state and about the steps of two cores that they need. -/

namespace Sys2Proof.Machine

open Sys2Proof.Safety

/-! ### The state after reset (R220 to R226) -/

/-- Settles O59: reset writes 0 into LSIE of each core. -/
theorem resetDisabled : Obligations.ResetDisabled := fun c => Vector.getElem_replicate c.isLt

theorem reset_position (c : CoreId) : State.reset.position[c] = .idle := Vector.getElem_replicate c.isLt

/-- With no record and no core inside an operation, the bookkeeping is in its form. -/
theorem inv_of_no_fault_idle {s : State} (hf : s.faults = []) (hp : ∀ c : CoreId, s.position[c] = .idle) : Inv s where
  sorted := hf ▸ .nil
  once := hf ▸ .nil
  idle c _ := hp c
  positions c := hp c ▸ trivial

/-- Where no transaction has reached the block, the values that its registers hold are the reset values of `<B`. -/
theorem followsOrder_of_empty {m0 : CoreId → Bool} {t0 : CoreId → Dword} {s : State} (hh : s.history = [])
    (hm : ∀ c : CoreId, s.msip[c] = m0 c) (ht : ∀ c : CoreId, s.mtimecmp[c] = t0 c) : FollowsOrder m0 t0 s where
  msip c := by rw [hh, lastWritten, hm]
  mtimecmp c := by rw [hh, lastWritten, ht]

/-- Settles O58: reset leaves no record, no position and an empty order, and draws the registers. -/
theorem invAtReset : Obligations.InvAtReset :=
  ⟨inv_of_no_fault_idle rfl reset_position, followsOrder_of_empty rfl (perCore_getElem _) (perCore_getElem _)⟩

/-- No software interrupt is enabled while LSIE is 0, whatever the bit is (R192). -/
theorem msiEnabled_of_masked {c : CoreId} {s : State} (h : s.lsie[c] = false) : msiEnabled c s = false := by
  rw [msiEnabled, h, Bool.and_false, Bool.false_and]

/-- Settles O60: each core is masked after reset, so no MSIP bit is delivered. -/
theorem resetState : Obligations.ResetState :=
  ⟨rfl, rfl, fun c => ⟨reset_position c, rfl, msiEnabled_of_masked (resetDisabled c),
    takeMsi_ne_next_of_masked (resetDisabled c)⟩⟩

/-! ### The send lost inside `clear` (R232) -/

/-- A step of one core leaves every core that could step able to. -/
theorem able_of_opFrame {c d : CoreId} {s t : State} (h : OpFrame c s t) (ha : Able d s) : Able d t :=
  able_of_same ha h.faults h.core

/-- A step of one core leaves what another core issues next. -/
theorem issues_of_opFrame {c d : CoreId} {q : Request} {rest : List Request} {s t : State} (h : OpFrame c s t)
    (hdc : d ≠ c) (hi : Issues d q rest s) : Issues d q rest t := by
  obtain ⟨hp, -, hq⟩ := h.others d hdc
  exact ⟨able_of_opFrame h hi.able, hp.trans hi.idle, hq.trans hi.program⟩

/-- Settles O42: the position of `clear` keeps the bit as its read saw it while the `send` sets it, and the second step
writes 0 whatever the bit is by then. -/
theorem lostSend : Obligations.LostSend := by
  intro c d e rc rd s hcd hm hclear hsend
  obtain ⟨t, ht, hft, -, -, -, hmt, -, -, hread⟩ := clearReads c e.val rc s hclear
  obtain ⟨hpos, -⟩ := hread e rfl hm
  obtain ⟨u, hu, hfu, -, -, -, hmu, -, -, hset⟩ := send d e.val rd t (issues_of_opFrame hft hcd.symm hsend)
  obtain ⟨hok, hbit, -⟩ := hset e rfl (hmt.trans hm)
  obtain ⟨hposu, -⟩ := hfu.others c hcd
  obtain ⟨v, hv, hfv, -, -, -, -, -, hwrite⟩ :=
    clearWrites c e s.msip[e] u (able_of_opFrame hfu (able_of_opFrame hft hclear.able)) (hposu.trans hpos)
  obtain ⟨hresult, hzero, -⟩ := hwrite (hmu.trans (hmt.trans hm))
  obtain ⟨-, hreply, -⟩ := hfv.others d hcd.symm
  exact ⟨t, u, v, ht, hu, hv, hbit, hok, hreply.trans hok, hzero, hresult⟩

end Sys2Proof.Machine
end
